-- ==== Sys2Proof/Word.lean ====
section
/-! DEFINITION. The widths of LCDSEQ's values (spec/00_scope.md R6, R7). -/

namespace Sys2Proof

/-- A register, data, opcode or parameter byte, and a register offset: 8 bits (R6). -/
abbrev Byte := BitVec 8

/-- A bus address: 7 bits (R6, R21, R25). -/
abbrev BusAddr := BitVec 7

/-- The `value` input of a write request: `WVAL` = 10 bits (R7, R36). -/
abbrev WriteValue := BitVec 10

/-- A command tag: 3 bits (R48, R52). -/
abbrev Tag := BitVec 3

/-- The `log_step` signal of the log port: 3 bits (R59). -/
abbrev LogStep := BitVec 3

/-- The `op` signal of a request: 4 bits (R56). -/
abbrev OpCode := BitVec 4

end Sys2Proof
end

