-- ==== Sys2Proof/Config.lean ====
section
/-! DEFINITION. The parameters of R7: the open ones as constants with no body, of which nothing can be proved, so that
what holds of the model holds for every choice; and the free values for what the spec leaves as "any value"
(spec/93_implementation_defined.md). -/

namespace Sys2Proof

/-! ## The open parameters, R7 -/

/-- NCLIENT is one more than this number: "OPEN, any integer >= 1" (R7, D5). Log 5. -/
opaque Config.moreClients : Nat

/-- NCLIENT, the number of client ports (R7). -/
def Config.nclient : Nat := Config.moreClients + 1

/-- Which numbers stand for a bus handle besides the one that every Handle type has. Log 3. -/
opaque Config.isHandle : Nat → Bool

/-- WCODE, the width of `bus_code`, `code` and `log_code` (R7, R57, R59). Log 4. -/
opaque Config.wcode : Nat

/-- The type of the opaque bus handle of ATTACH: "OPEN, any inhabited type" (R7, D6). It has one value, and whatever
others `Config.isHandle` gives it. No rule looks inside a handle or compares two. Log 3. -/
inductive Handle where
  | first
  | other (n : Nat) (isHandle : Config.isHandle n = true)
  deriving DecidableEq, Repr, Inhabited

/-- The type of "the underlying transport status code": "OPEN, any inhabited type; port width WCODE bits" (R7, D7),
here its WCODE bits on the port. No rule looks inside a code. Log 4. -/
structure BusCode where
  bits : BitVec Config.wcode
  deriving DecidableEq, Repr, Inhabited

/-! ## The decided parameter and the free values -/

/-- The signals a bus operation is answered with: `bus_ok` with `bus_rdata`, or `bus_code` (R59). `rdata` is
meaningful for a read only. -/
inductive Answer where
  | ok (rdata : Byte)
  | fail (code : BusCode)
  deriving DecidableEq, Repr, Inhabited

/-- `WIDE_VALUE_POLICY` of R7 and R84. -/
inductive WideValuePolicy where
  | truncate
  | refuse
  deriving DecidableEq, Repr

/-- The spec decides `truncate` (R7, R84, D21); the other branch is modelled too. Log 6. -/
def Config.wideValuePolicy : WideValuePolicy := .truncate

/-- Free value: the answer a black-box responder gives to the n-th free draw (R32, U6, U7, U8). Log 7. -/
opaque Config.busAnswer : Nat → Answer

/-- Free value: the byte the ideal responder answers for a register nothing has written (R33). Log 15. -/
opaque Config.freeByte : Nat → Byte

/-- Free value: ADDR where R21 leaves it unspecified (U16). Logs 1 and 2. -/
opaque Config.freeAddr : Nat → BusAddr

/-- Free value: the handle of a transfer made while DEV is absent, which no rule gives. Log 12. -/
opaque Config.freeHandle : Nat → Handle

end Sys2Proof
end

