-- ==== Sys2Proof/Syntax.lean ====
section
/-! DEFINITION. The 14 instructions of spec/opcode_table.json, the six requests among them as a type of their own,
the ports of R55 and the request record of R56. -/

namespace Sys2Proof

/-- `kind` of TRANSACT (R56): 0 = Read, 1 = Write. -/
inductive Kind where
  | read
  | write
  deriving DecidableEq, Repr

/-- The chip select `sel` (R26, R56): 0 = TEXT, 1 = BACKLIGHT. -/
inductive Chip where
  | text
  | backlight
  deriving DecidableEq, Repr

/-- One constructor per row of spec/opcode_table.json. A display command carries the sub-fields of R49 (a flag is
`true` for 1), so an instruction holds a well-formed Command by construction (R52); SEND_CMD carries a raw one. -/
inductive Instr where
  | clearDisplay
  | returnHome
  | entryModeSet (idFlag shiftEntireDisplay : Bool)
  | displayOnOffCtl (displayOnOff cursorOnOff cursorBlinkOnOff : Bool)
  | cursorOrDisplayShift (rlSel scrollOrShiftSel : Bool)
  | functionSet (formatMode lineNumber dataLength : Bool)
  | setCgramAddress (address : BitVec 5)
  | setDdramAddress (address : BitVec 6)
  | attach (handle : Handle)
  | detach
  | openSession
  | closeSession
  | transact (kind : Kind) (sel : Chip) (reg : Byte) (value : WriteValue)
  | sendCmd (tag : Tag) (payload : Byte)
  deriving DecidableEq, Repr

/-- The six request operations (R56): what can be in flight on a port. -/
inductive Request where
  | attach (handle : Handle)
  | detach
  | openSession
  | closeSession
  | transact (kind : Kind) (sel : Chip) (reg : Byte) (value : WriteValue)
  | sendCmd (tag : Tag) (payload : Byte)
  deriving DecidableEq, Repr

/-- The instruction a request is. -/
def Request.toInstr : Request → Instr
  | .attach h => .attach h
  | .detach => .detach
  | .openSession => .openSession
  | .closeSession => .closeSession
  | .transact kind sel reg value => .transact kind sel reg value
  | .sendCmd tag payload => .sendCmd tag payload

/-- The ports something is presented on (R55): the lifecycle port, client port `k`, the ENC and the DEC port.
Client ports are numbered 0 to NCLIENT - 1: see `Port.existsIn`. -/
inductive Port where
  | lifecycle
  | client (k : Nat)
  | enc
  | dec
  deriving DecidableEq, Repr

/-- The ports of a machine with `nclient` client ports: `k` in 0..NCLIENT-1 (R55). -/
def Port.existsIn (nclient : Nat) : Port → Bool
  | .client k => decide (k < nclient)
  | .lifecycle | .enc | .dec => true

/-- The signals of a request (R56). A signal not listed for an operation is ignored by it. -/
structure RequestRecord where
  op : OpCode
  handle : Handle := .first
  kind : BitVec 1 := 0#1
  sel : BitVec 1 := 0#1
  reg : Byte := 0#8
  value : WriteValue := 0#10
  tag : Tag := 0#3
  payload : Byte := 0#8
  deriving DecidableEq, Repr

end Sys2Proof
end

