-- ==== Sys2Proof/Decode.lean ====
section
/-! DEFINITION. The register map (spec/20_memory.md R28), the Command Codec ENCODE, DECODE and WIRE
(spec/40_codec.md), the decoding of requests (spec/30_encoding.md R56), the cutting of a byte stream (R47), and after
them the encoder. Everything here is total; what has no decoding is rejected by name. -/

namespace Sys2Proof

/-! ## The register map, R28 -/

def Reg.display : Byte := 0x80#8
def Reg.letters : Byte := 0x40#8
def Reg.mode1 : Byte := 0x00#8
def Reg.mode2 : Byte := 0x01#8
def Reg.pwmBlue : Byte := 0x02#8
def Reg.pwmGreen : Byte := 0x03#8
def Reg.pwmRed : Byte := 0x04#8
def Reg.ledOut : Byte := 0x05#8

/-! ## Opcodes and masks, R48 -/

/-- `popcount(v)` of R11. -/
def popcount (v : Byte) : Nat :=
  (List.range 8).countP fun i => v.getLsbD i

/-- `OPC[tag] = 1 << tag` (R48). -/
def opcodeOf (tag : Tag) : Byte :=
  1#8 <<< tag.toNat

/-- `MASK[tag]` (R48): the documented sub-field bits of R49. -/
def maskOf (tag : Tag) : Byte :=
  match tag.toNat with
  | 2 => 0x03#8
  | 3 => 0x07#8
  | 4 => 0x0C#8
  | 5 => 0x1C#8
  | 6 => 0x1F#8
  | 7 => 0x3F#8
  | _ => 0x00#8

/-- The `i` with `opcode = 1 << i`, for an opcode of one set bit (R64). -/
def tagOf (opcode : Byte) : Tag :=
  BitVec.ofNat 3 ((List.range 8).findIdx fun i => opcode.getLsbD i)

/-- The tags of format `CMD1`: all but CLEAR_DISPLAY and RETURN_HOME (R45, R63). -/
def hasParam (tag : Tag) : Bool :=
  decide (2 ≤ tag.toNat)

/-! ## ENCODE, R63 -/

/-- The outputs of the ENC port (R58). `param` carries no meaning when `paramPresent` is false. -/
structure EncOut where
  opcode : Byte
  paramPresent : Bool
  param : Byte
  deriving DecidableEq, Repr

/-- `ENCODE(tag, payload)` (R63): unused payload bits are forced to zero; there is no error result. -/
def encodeRaw (tag : Tag) (payload : Byte) : EncOut :=
  { opcode := opcodeOf tag, paramPresent := hasParam tag, param := payload &&& maskOf tag }

/-- The source's `param: byte?`: the pair (`enc_param_present`, `enc_param`) of R58. -/
def EncOut.param? (e : EncOut) : Option Byte :=
  if e.paramPresent then some e.param else none

/-- The bytes of the wire representation (R45): the opcode byte, then the parameter byte when there is one. -/
def EncOut.bytes (e : EncOut) : List Byte :=
  e.opcode :: e.param?.toList

/-! ## DECODE, R64 to R68 -/

/-- Why something has no decoding. -/
inductive DecodeError where
  /-- DECODE's result `UnknownOpcode` (R105). -/
  | unknownOpcode
  /-- DECODE's result `ReservedBitSet` (R106). -/
  | reservedBitSet
  /-- A `CMD1` opcode with no parameter: the spec gives it no meaning (R68, U12). -/
  | missingParameter
  /-- An `op` in 0x6 to 0xF, or an operation on the wrong kind of port: not a request (R56, U5). -/
  | notARequest
  /-- The end of a byte stream: there is no opcode byte to decode. -/
  | endOfStream
  deriving DecidableEq, Repr

/-- `DECODE(opcode, param_present, param)` (R64), the optional byte as an Option. -/
def decodeRaw (opcode : Byte) (param : Option Byte) : Except DecodeError (Tag × Byte) :=
  if popcount opcode ≠ 1 then .error .unknownOpcode
  else
    let tag := tagOf opcode
    match hasParam tag, param with
    | false, none => .ok (tag, 0#8)
    | false, some b => if b = 0#8 then .ok (tag, 0#8) else .error .reservedBitSet
    | true, none => .error .missingParameter
    | true, some b => if b &&& ~~~maskOf tag = 0#8 then .ok (tag, b) else .error .reservedBitSet

/-! ## WIRE, R70 -/

/-- `WIRE(tag, payload)` (R70): (register, byte) pairs, all for register DISPLAY of chip TEXT. -/
def wire (tag : Tag) (payload : Byte) : List (Byte × Byte) :=
  (encodeRaw tag payload).bytes.map fun b => (Reg.display, b)

/-! ## Commands and their fields, R49 and R50 -/

/-- One field bit at its place in the parameter byte (R50). -/
def fieldBit (b : Bool) (pos : Nat) : Byte :=
  (BitVec.ofBool b).setWidth 8 <<< pos

/-- ENTRY_MODE_SET's parameter byte (R50). -/
def entryModeSetParam (idFlag shiftEntireDisplay : Bool) : Byte :=
  fieldBit shiftEntireDisplay 1 ||| fieldBit idFlag 0

/-- DISPLAY_ON_OFF_CTL's parameter byte (R50). -/
def displayOnOffCtlParam (displayOnOff cursorOnOff cursorBlinkOnOff : Bool) : Byte :=
  fieldBit cursorBlinkOnOff 2 ||| fieldBit cursorOnOff 1 ||| fieldBit displayOnOff 0

/-- CURSOR_OR_DISPLAY_SHIFT's parameter byte (R50). -/
def cursorOrDisplayShiftParam (rlSel scrollOrShiftSel : Bool) : Byte :=
  fieldBit scrollOrShiftSel 3 ||| fieldBit rlSel 2

/-- FUNCTION_SET's parameter byte (R50). -/
def functionSetParam (formatMode lineNumber dataLength : Bool) : Byte :=
  fieldBit dataLength 4 ||| fieldBit lineNumber 3 ||| fieldBit formatMode 2

/-- SET_CGRAM_ADDRESS's parameter byte (R50). -/
def setCgramAddressParam (address : BitVec 5) : Byte :=
  address.setWidth 8

/-- SET_DDRAM_ADDRESS's parameter byte (R50). -/
def setDdramAddressParam (address : BitVec 6) : Byte :=
  address.setWidth 8

/-- The command of a raw Command: each field is the named bits of the payload (R50, R64). Bits that are no field are
not looked at, which is ENCODE's "unused bits forced to zero" (R63). -/
def commandOf (tag : Tag) (payload : Byte) : Instr :=
  match tag.toNat with
  | 0 => .clearDisplay
  | 1 => .returnHome
  | 2 => .entryModeSet (payload.getLsbD 0) (payload.getLsbD 1)
  | 3 => .displayOnOffCtl (payload.getLsbD 0) (payload.getLsbD 1) (payload.getLsbD 2)
  | 4 => .cursorOrDisplayShift (payload.getLsbD 2) (payload.getLsbD 3)
  | 5 => .functionSet (payload.getLsbD 2) (payload.getLsbD 3) (payload.getLsbD 4)
  | 6 => .setCgramAddress (payload.extractLsb' 0 5)
  | _ => .setDdramAddress (payload.extractLsb' 0 6)

/-- The raw Command (tag, payload) of a command; none for a request (R52). -/
def Instr.raw? : Instr → Option (Tag × Byte)
  | .clearDisplay => some (0#3, 0#8)
  | .returnHome => some (1#3, 0#8)
  | .entryModeSet i s => some (2#3, entryModeSetParam i s)
  | .displayOnOffCtl d c b => some (3#3, displayOnOffCtlParam d c b)
  | .cursorOrDisplayShift r s => some (4#3, cursorOrDisplayShiftParam r s)
  | .functionSet f n d => some (5#3, functionSetParam f n d)
  | .setCgramAddress a => some (6#3, setCgramAddressParam a)
  | .setDdramAddress a => some (7#3, setDdramAddressParam a)
  | .attach _ | .detach | .openSession | .closeSession | .transact .. | .sendCmd .. => none

/-- DECODE as a map to the command with its fields. -/
def decodeCommand (opcode : Byte) (param : Option Byte) : Except DecodeError Instr :=
  (decodeRaw opcode param).map fun c => commandOf c.1 c.2

/-! ## A stream of command bytes, R47 -/

/-- The number of bytes of a command, from its opcode byte alone (R47); an invalid opcode byte has no length. -/
def commandLength (opcode : Byte) : Option Nat :=
  if popcount opcode = 1 then some (if hasParam (tagOf opcode) then 2 else 1) else none

/-- The bytes of the first command of a stream and the bytes after it (R47). What the parameter byte is plays no
part. -/
def cutCommand : List Byte → Except DecodeError (Byte × Option Byte × List Byte)
  | [] => .error .endOfStream
  | opcode :: rest =>
    match commandLength opcode with
    | none => .error .unknownOpcode
    | some 1 => .ok (opcode, none, rest)
    | some _ =>
      match rest with
      | [] => .error .missingParameter
      | b :: rest' => .ok (opcode, some b, rest')

/-- The result of DECODE on the first command of a stream and the bytes after it (R47, R64); an error where no command
can be cut. -/
def decodeBytes (bytes : List Byte) : Except DecodeError (Except DecodeError Instr × List Byte) :=
  (cutCommand bytes).map fun c => (decodeCommand c.1 c.2.1, c.2.2)

/-- At most `fuel` commands of a stream: the results in order, up to the first place where no command can be cut. -/
def decodeUpTo : Nat → List Byte → List (Except DecodeError Instr)
  | 0, _ => []
  | fuel + 1, bytes =>
    match decodeBytes bytes with
    | .ok (result, rest) => result :: decodeUpTo fuel rest
    | .error .endOfStream => []
    | .error e => [.error e]

/-- A whole stream of bytes, cut into commands and decoded (R47, R64). Every command takes a byte, so the stream's
length is enough. -/
def decodeStream (bytes : List Byte) : List (Except DecodeError Instr) :=
  decodeUpTo bytes.length bytes

/-! ## Requests, R56 -/

def Kind.ofBit (b : BitVec 1) : Kind := if b = 0#1 then .read else .write
def Chip.ofBit (b : BitVec 1) : Chip := if b = 0#1 then .text else .backlight

/-- The request a record stands for (R56); an `op` in 0x6 to 0xF stands for none. -/
def decodeRecord (r : RequestRecord) : Except DecodeError Request :=
  match r.op.toNat with
  | 0 => .ok (.attach r.handle)
  | 1 => .ok .detach
  | 2 => .ok .openSession
  | 3 => .ok .closeSession
  | 4 => .ok (.transact (Kind.ofBit r.kind) (Chip.ofBit r.sel) r.reg r.value)
  | 5 => .ok (.sendCmd r.tag r.payload)
  | _ => .error .notARequest

/-- "ATTACH and DETACH are accepted on the lifecycle port only, the other four on client ports only" (R56). -/
def Request.acceptedOn : Request → Port → Bool
  | .attach _, .lifecycle | .detach, .lifecycle => true
  | .openSession, .client _ | .closeSession, .client _ | .transact .., .client _ | .sendCmd .., .client _ => true
  | _, _ => false

/-- The request a record presented on port `p` is (R56). -/
def decodeRequest (p : Port) (r : RequestRecord) : Except DecodeError Request :=
  match decodeRecord r with
  | .ok q => if q.acceptedOn p then .ok q else .error .notARequest
  | .error e => .error e

/-! ## The encoded form of an instruction -/

/-- What an instruction is encoded as: a command as its opcode byte and optional parameter byte (R45), a request as
its record (R56). -/
inductive Encoded where
  | command (opcode : Byte) (param : Option Byte)
  | request (r : RequestRecord)
  deriving DecidableEq, Repr

/-- The decoder of both forms. -/
def decode : Encoded → Except DecodeError Instr
  | .command opcode param => decodeCommand opcode param
  | .request r => (decodeRecord r).map Request.toInstr

/-- The 16-bit word `W = {opcode, param}` of a `CMD1` row and the 8-bit word of a `CMD0` row (R46), and the 4-bit
`op` of a request row, as spec/opcode_table.json numbers them; a request's other signals are zero.
The width of a request row in whole bytes is 8, the width of a `CMD0` row: an 8-bit word that is a `CMD0` opcode is
read as that command, any other as an `op` (log 13). -/
def tableWord (nbits w : Nat) : Option Encoded :=
  if nbits = 16 then
    if w < 65536 then some (.command (BitVec.ofNat 8 (w / 256)) (some (BitVec.ofNat 8 w))) else none
  else if nbits = 8 ∧ (w = 1 ∨ w = 2) then some (.command (BitVec.ofNat 8 w) none)
  else if (nbits = 8 ∨ nbits = 4) ∧ w < 16 then some (.request { op := BitVec.ofNat 4 w })
  else none

/-- The instruction of a word of the table (see `tableWord`). -/
def decodeTableWord (nbits w : Nat) : Option Instr :=
  match tableWord nbits w with
  | none => none
  | some e =>
    match decode e with
    | .ok i => some i
    | .error _ => none

/-! ## The encoder -/

def Kind.bit : Kind → BitVec 1
  | .read => 0#1
  | .write => 1#1

def Chip.bit : Chip → BitVec 1
  | .text => 0#1
  | .backlight => 1#1

/-- The record of a request (R56); a signal the operation ignores is zero. -/
def Request.record : Request → RequestRecord
  | .attach h => { op := 0x0#4, handle := h }
  | .detach => { op := 0x1#4 }
  | .openSession => { op := 0x2#4 }
  | .closeSession => { op := 0x3#4 }
  | .transact kind sel reg value => { op := 0x4#4, kind := kind.bit, sel := sel.bit, reg := reg, value := value }
  | .sendCmd tag payload => { op := 0x5#4, tag := tag, payload := payload }

/-- The request an instruction is; none for a command. -/
def Instr.request? : Instr → Option Request
  | .attach h => some (.attach h)
  | .detach => some .detach
  | .openSession => some .openSession
  | .closeSession => some .closeSession
  | .transact kind sel reg value => some (.transact kind sel reg value)
  | .sendCmd tag payload => some (.sendCmd tag payload)
  | _ => none

/-- The encoding of an instruction (R45, R48, R50, R56). -/
def encode : Instr → Encoded
  | .clearDisplay => .command 0x01#8 none
  | .returnHome => .command 0x02#8 none
  | .entryModeSet i s => .command 0x04#8 (some (entryModeSetParam i s))
  | .displayOnOffCtl d c b => .command 0x08#8 (some (displayOnOffCtlParam d c b))
  | .cursorOrDisplayShift r s => .command 0x10#8 (some (cursorOrDisplayShiftParam r s))
  | .functionSet f n d => .command 0x20#8 (some (functionSetParam f n d))
  | .setCgramAddress a => .command 0x40#8 (some (setCgramAddressParam a))
  | .setDdramAddress a => .command 0x80#8 (some (setDdramAddressParam a))
  | .attach h => .request (Request.record (.attach h))
  | .detach => .request (Request.record .detach)
  | .openSession => .request (Request.record .openSession)
  | .closeSession => .request (Request.record .closeSession)
  | .transact kind sel reg value => .request (Request.record (.transact kind sel reg value))
  | .sendCmd tag payload => .request (Request.record (.sendCmd tag payload))

/-- The bytes of an encoded command on register DISPLAY (R45); a request has none. -/
def Encoded.bytes : Encoded → List Byte
  | .command opcode param => opcode :: param.toList
  | .request _ => []

/-! ## The opcode table, R61 -/

/-- A row of spec/opcode_table.json: `w` is a valid encoding of the row iff `w & mask = pattern` (R61). -/
structure TableRow where
  mnemonic : String
  width : Nat
  pattern : Nat
  mask : Nat
  deriving DecidableEq, Repr

def TableRow.matches (row : TableRow) (w : Nat) : Bool :=
  decide (w < 2 ^ row.width) && (w &&& row.mask == row.pattern)

def commandRows : List TableRow :=
  [⟨"CLEAR_DISPLAY", 8, 0x01, 0xFF⟩, ⟨"RETURN_HOME", 8, 0x02, 0xFF⟩] ++
  [⟨"ENTRY_MODE_SET", 16, 0x0400, 0xFFFC⟩, ⟨"DISPLAY_ON_OFF_CTL", 16, 0x0800, 0xFFF8⟩,
    ⟨"CURSOR_OR_DISPLAY_SHIFT", 16, 0x1000, 0xFFF3⟩, ⟨"FUNCTION_SET", 16, 0x2000, 0xFFE3⟩,
    ⟨"SET_CGRAM_ADDRESS", 16, 0x4000, 0xFFE0⟩, ⟨"SET_DDRAM_ADDRESS", 16, 0x8000, 0xFFC0⟩]

def requestRows : List TableRow :=
  [⟨"ATTACH", 4, 0x0, 0xF⟩, ⟨"DETACH", 4, 0x1, 0xF⟩, ⟨"OPEN_SESSION", 4, 0x2, 0xF⟩,
    ⟨"CLOSE_SESSION", 4, 0x3, 0xF⟩, ⟨"TRANSACT", 4, 0x4, 0xF⟩, ⟨"SEND_CMD", 4, 0x5, 0xF⟩]

/-- The mnemonic of an instruction's row. -/
def Instr.mnemonic : Instr → String
  | .clearDisplay => "CLEAR_DISPLAY"
  | .returnHome => "RETURN_HOME"
  | .entryModeSet .. => "ENTRY_MODE_SET"
  | .displayOnOffCtl .. => "DISPLAY_ON_OFF_CTL"
  | .cursorOrDisplayShift .. => "CURSOR_OR_DISPLAY_SHIFT"
  | .functionSet .. => "FUNCTION_SET"
  | .setCgramAddress _ => "SET_CGRAM_ADDRESS"
  | .setDdramAddress _ => "SET_DDRAM_ADDRESS"
  | .attach _ => "ATTACH"
  | .detach => "DETACH"
  | .openSession => "OPEN_SESSION"
  | .closeSession => "CLOSE_SESSION"
  | .transact .. => "TRANSACT"
  | .sendCmd .. => "SEND_CMD"

/-- The word `W` of a command (R46) or the `op` of a request, with its width: what R61's rows match. -/
def Encoded.word : Encoded → Nat × Nat
  | .command opcode none => (8, opcode.toNat)
  | .command opcode (some b) => (16, opcode.toNat * 256 + b.toNat)
  | .request r => (4, r.op.toNat)

end Sys2Proof
end

