-- ==== Sys2Proof/WellFormed.lean ====
section
/-! DEFINITION. The checks on what an agent presents: raw Commands (spec/30_encoding.md R52) and request records
(R56). A command of `Instr` is well-formed by construction (R52). -/

namespace Sys2Proof

/-- "a raw Command is well-formed iff `payload & ~MASK[tag] = 0`" (R52). -/
def rawWellFormed (tag : Tag) (payload : Byte) : Bool :=
  payload &&& ~~~maskOf tag == 0#8

/-- The range the source gives a write value, 0 to 255 (R31, R84). -/
def valueInRange (value : WriteValue) : Bool :=
  decide (value.toNat ≤ 255)

/-- An instruction whose operands the spec gives a meaning without a decision of its own: SEND_CMD's raw Command is
well-formed (R52), a write's value lies in the source's range (R84). An instruction that fails this check is executed
all the same, by the masking of R63 and the truncation of R84. -/
def Instr.wellFormed : Instr → Bool
  | .sendCmd tag payload => rawWellFormed tag payload
  | .transact .write _ _ value => valueInRange value
  | _ => true

/-- A record that is a request on port `p` (R56): its `op` is 0x0 to 0x5 and `p` is of the operation's kind. -/
def RequestRecord.isRequestOn (r : RequestRecord) (p : Port) : Bool :=
  match decodeRequest p r with
  | .ok _ => true
  | .error _ => false

end Sys2Proof
end

