-- ==== Sys2Proof/Machine/State.lean ====
section
/-! DEFINITION. The state of LCDSEQ (spec/10_state.md R13 to R22), what stands outside it and the step needs as plain
data (events to come, the responder, the outputs seen so far), the reasons to stop, and reset (R120). -/

namespace Sys2Proof.Machine

/-- TLOCK, the Transport lock (R20). -/
inductive TLock where
  | free
  | held
  deriving DecidableEq, Repr

/-- A bus operation (R31): `kind` R or W, `wdata` for a W only. -/
inductive BusOp where
  | read (a7 : BusAddr) (reg : Byte)
  | write (a7 : BusAddr) (reg : Byte) (wdata : Byte)
  deriving DecidableEq, Repr

/-- A bus response (R31): `rdata` for an `ok` read only. -/
inductive BusResp where
  | okRead (rdata : Byte)
  | okWrite
  | fail (code : BusCode)
  deriving DecidableEq, Repr

/-- The output signals of the bus port (R59): `kind` is 0 for R and 1 for W, `wdata` is meaningful for W only. -/
structure BusOut where
  a7 : BusAddr
  reg : Byte
  kind : BitVec 1
  wdata : Byte
  deriving DecidableEq, Repr

/-- The input signals of the bus port (R59): `code` is meaningful when `ok` is 0, `rdata` for an R with `ok` 1. -/
structure BusIn where
  ok : BitVec 1
  code : BusCode
  rdata : Byte
  deriving DecidableEq, Repr

/-- The response to a request (R57): `data` for a read with OK, `code` for BUS_ERROR. -/
inductive Response where
  | ok
  | okData (data : Byte)
  | busError (code : BusCode)
  | deviceBusy
  | deviceNotReady
  deriving DecidableEq, Repr

/-- The outputs of the DEC port (R58): a Command with status OK, or one of DECODE's two errors. -/
inductive DecOut where
  | ok (tag : Tag) (payload : Byte)
  | unknownOpcode
  | reservedBitSet
  deriving DecidableEq, Repr

/-- What an observer outside LCDSEQ sees (R10). -/
inductive Output where
  /-- The response to the request on port `p` (R57). -/
  | response (p : Port) (r : Response)
  /-- A bus operation, the handle it goes through, and its answer (R31): an entry of the bus trace. -/
  | bus (h : Handle) (op : BusOp) (resp : BusResp)
  /-- The log event `InitFail(step, reg, code)` (R99), which is the signals `log_step`, `log_reg`, `log_code` of the log
  port (R59). -/
  | log (step : LogStep) (reg : Byte) (code : BusCode)
  /-- A use of the ENC port (R58). -/
  | enc (o : EncOut)
  /-- A use of the DEC port (R58). -/
  | dec (o : DecOut)
  deriving DecidableEq, Repr

/-- Which of T1 to T4 a transaction takes next (R80). At T4 it carries the bus response it received (R22 (d)). -/
inductive Phase where
  | acquire
  | retarget
  | transfer
  | release (resp : BusResp)
  deriving DecidableEq, Repr

/-- The index of a request's next micro-step (R22 (a)). -/
inductive Micro where
  /-- The request's first micro-step: OPEN_SESSION's S1, the `require` of ATTACH, TRANSACT and SEND_CMD, the whole of
  DETACH and CLOSE_SESSION. -/
  | start
  /-- A micro-step of the request's `n`-th transaction, from 0: INIT_STEP - 1 of an ATTACH, 0 for C1 and 1 for C2 of a
  SEND_CMD (R22 (b), (e)). -/
  | xact (n : Nat) (ph : Phase)
  /-- OPEN_SESSION's S2: this request is the one that set `held` (R22 (c)). -/
  | openS2
  /-- ATTACH's A7. -/
  | expose
  deriving DecidableEq, Repr

/-- A request in flight: its operands and its next micro-step (R22 (a)). -/
structure Flight where
  req : Request
  micro : Micro
  deriving DecidableEq, Repr

/-- The bytes the ideal responder holds (R33), by the address `key a7 reg`, in strictly rising order. -/
abbrev Memory := List Host.Cell

/-- The bus responder: a black box (R32) with the answers it is going to give, free beyond them, or the ideal
responder of R33. Log 7. -/
inductive Responder where
  | blackBox (answers : List Answer)
  | ideal (cells : Memory)
  deriving DecidableEq, Repr

/-- What an agent does next, as plain data. Log 8. -/
inductive Event where
  /-- Present a request record on port `p` and run the request, with no other agent moving, to its response or until
  it waits at T1. -/
  | run (p : Port) (r : RequestRecord)
  /-- Present a request record on port `p`; its micro-steps are left to `grant`. -/
  | issue (p : Port) (r : RequestRecord)
  /-- The request in flight on port `p` takes its next micro-step, if that is enabled. -/
  | grant (p : Port)
  /-- The script line `Ck: CMD NAME field=v` (R60), the Command given by its bytes: run SEND_CMD of it on client
  port `k`. -/
  | cmd (k : Nat) (opcode : Byte) (param : Option Byte)
  /-- Use the ENC port (R58). -/
  | enc (tag : Tag) (payload : Byte)
  /-- Use the DEC port (R58). -/
  | dec (opcode : Byte) (param : Option Byte)
  deriving DecidableEq, Repr

/-- The machine. The first five fields are LCDSEQ's state (R13, R22); the rest is the model's own: the outside world
as plain data. -/
structure State where
  /-- DEV (R17). -/
  dev : Option Handle
  /-- SESS.held (R18). -/
  held : Bool
  /-- TLOCK (R20). -/
  tlock : TLock
  /-- ADDR (R21). -/
  addr : BusAddr
  /-- The requests in flight, by port (R22). -/
  flights : List (Port × Flight)
  /-- NCLIENT (R7), the machine's number of client ports: a parameter, which no step changes. Log 5. -/
  nclient : Nat
  /-- The port the request now executed stands on; set by every event before a rule reads it. -/
  port : Port
  /-- What the agents do next, and in which order. -/
  events : List Event
  /-- The bus responder (R32, R33). -/
  responder : Responder
  /-- The counter the free values are drawn by. -/
  draws : Nat
  /-- What was seen outside so far, oldest first (R10). -/
  outputs : List Output
  deriving DecidableEq, Repr

/-- No fault stops LCDSEQ: "No condition in this core is fatal to the process" (R110); the five errors of R101 are
results. The type is empty. Log 19. -/
inductive Fault where
  deriving DecidableEq, Repr

/-- Why a step has no meaning. All are safe: the machine stops where the spec gives no behaviour. -/
inductive Refusal where
  /-- Raised by `exec` for an instruction with no meaning yet; no arm is left that does. Safe. -/
  | notModelled (mnemonic : String)
  /-- Raised by `accept` and the fetch: an `op` in 0x6 to 0xF, an operation on the wrong kind of port, or one on
  a client port that the machine does not have, is not a request (R55, R56, U5). Safe. -/
  | notARequest
  /-- Raised by `accept`: a second request on a port that has one in flight (R112, U3). Safe. -/
  | portBusy
  /-- Raised by ATTACH while DEV is present (R97, U3). Safe. -/
  | attachWhileAttached
  /-- Raised by CLOSE_SESSION while the session is closed (R92, U2). Safe. -/
  | closeWhileClosed
  /-- Raised by TRANSACT and SEND_CMD while the session is closed (R93, R94, U1). Safe. -/
  | transferWhileClosed
  /-- Raised by `accept` and DETACH: a DETACH while an ATTACH, TRANSACT or SEND_CMD is in flight (R112, U4). Safe. -/
  | detachUnderTransfer
  /-- Raised by TRANSACT under `WIDE_VALUE_POLICY = refuse` only, for a write value above 255 (R84, U10). Safe. -/
  | wideValue
  /-- Raised by a use of the DEC port with a `CMD1` opcode and no parameter byte (R68, U12). Safe. -/
  | missingParameter
  /-- Raised by the fetch of a `cmd` event whose bytes are no Command, so that R60 gives no line for it. Safe. -/
  | notACommand
  /-- Raised by a micro-step index that does not belong to its request, which no run makes. Safe. -/
  | noSuchMicroStep
  deriving DecidableEq, Repr

/-- The machine right after reset (R120). ADDR is unspecified there: a free value (log 1). -/
def State.reset : State where
  dev := none
  held := false
  tlock := .free
  addr := Config.freeAddr 0
  flights := []
  nclient := Config.nclient
  port := .lifecycle
  events := []
  responder := .blackBox []
  draws := 1
  outputs := []

end Sys2Proof.Machine
end

