-- ==== Sys2Proof/Machine/Flags.lean ====
section
/-! DEFINITION. LCDSEQ has no flags (R16): the outcome of an operation is the status of its response (R57), and
nothing is latched. Here are the statuses and the outcomes computed from a bus response. -/

namespace Sys2Proof.Machine

/-- The six statuses (R57); the numbers 6 and 7 are never produced. -/
inductive Status where
  | ok
  | busError
  | deviceBusy
  | deviceNotReady
  | unknownOpcode
  | reservedBitSet
  deriving DecidableEq, Repr

/-- The status codes of R57. -/
def statusCode : Status → BitVec 3
  | .ok => 0#3
  | .busError => 1#3
  | .deviceBusy => 2#3
  | .deviceNotReady => 3#3
  | .unknownOpcode => 4#3
  | .reservedBitSet => 5#3

/-- The `status` of a response (R57). -/
def responseStatus : Response → Status
  | .ok | .okData _ => .ok
  | .busError _ => .busError
  | .deviceBusy => .deviceBusy
  | .deviceNotReady => .deviceNotReady

/-- `dec_status` of the DEC port's outputs (R58). -/
def decStatus : DecOut → Status
  | .ok _ _ => .ok
  | .unknownOpcode => .unknownOpcode
  | .reservedBitSet => .reservedBitSet

/-- The response of TRANSACT after its transaction (R82, R83, R93): the byte read, OK, or BusError with the code
unchanged. -/
def transactResponse : BusResp → Response
  | .okRead b => .okData b
  | .okWrite => .ok
  | .fail code => .busError code

/-- `log_step` of the `n`-th initialisation write, from 0: INIT_STEP in 3 bits (R59, R99). -/
def logStep (n : Nat) : LogStep :=
  BitVec.ofNat 3 (n + 1)

/-- The log event of an initialisation write that failed (R97, R99); none for one that did not. -/
def initLog (step : LogStep) (reg : Byte) : BusResp → List Output
  | .fail code => [.log step reg code]
  | .okRead _ | .okWrite => []

end Sys2Proof.Machine
end

