-- ==== Sys2Proof/Machine/Operands.lean ====
section
/-! DEFINITION. The operand forms of the transactions: chip select, write value, and the transactions each request is
made of (R26, R84, R93, R94, R96). -/

namespace Sys2Proof.Machine

/-- The 7-bit bus address of a chip (R26): TEXT 0x3E, BACKLIGHT 0x62. -/
def a7Of : Chip → BusAddr
  | .text => 0x3E#7
  | .backlight => 0x62#7

/-- `v8 = value[7:0]` (R84). -/
def lowByte (value : WriteValue) : Byte :=
  value.setWidth 8

/-- `zext_10` of a byte (R12). -/
def zext10 (b : Byte) : WriteValue :=
  b.setWidth 10

/-- What a transaction does to its register: read it, or write a byte. -/
inductive Access where
  | read
  | write (wdata : Byte)
  deriving DecidableEq, Repr

/-- One register transaction (R80): the target chip, the register offset, and the access. The offset is not checked
against the map (R29). -/
structure Transfer where
  sel : Chip
  reg : Byte
  access : Access
  deriving DecidableEq, Repr

/-- The operands of `READ(sel, reg)` (R82). -/
def readTransfer (sel : Chip) (reg : Byte) : Transfer :=
  { sel := sel, reg := reg, access := .read }

/-- The operands of `WRITE(sel, reg, value)` (R83): the low byte of the value goes on the bus. -/
def writeTransfer (sel : Chip) (reg : Byte) (value : WriteValue) : Transfer :=
  { sel := sel, reg := reg, access := .write (lowByte value) }

/-- The bus operation of a transaction, to the address in ADDR (R80 T3). -/
def busOpOf (addr : BusAddr) (t : Transfer) : BusOp :=
  match t.access with
  | .read => .read addr t.reg
  | .write wdata => .write addr t.reg wdata

/-! ## The signals of the bus port, R59 -/

/-- `kind` of a bus operation (R31). -/
def BusOp.kind : BusOp → Kind
  | .read _ _ => .read
  | .write _ _ _ => .write

/-- The signals a bus operation is emitted with. The rule gives `bus_wdata` no meaning for an R: it is whatever
`idle` is there. -/
def BusOp.signals (idle : Byte) : BusOp → BusOut
  | .read a7 reg => { a7 := a7, reg := reg, kind := Kind.bit .read, wdata := idle }
  | .write a7 reg wdata => { a7 := a7, reg := reg, kind := Kind.bit .write, wdata := wdata }

/-- The bus operation the signals stand for. -/
def BusOut.op (sig : BusOut) : BusOp :=
  match Kind.ofBit sig.kind with
  | .read => .read sig.a7 sig.reg
  | .write => .write sig.a7 sig.reg sig.wdata

/-- The answer the signals stand for. -/
def BusIn.answer (sig : BusIn) : Answer :=
  if sig.ok = 1#1 then .ok sig.rdata else .fail sig.code

/-- The initialisation table of R96: (register, value), INIT_STEP 1 to 6. -/
def initTable : List (Byte × Byte) :=
  [(Reg.mode1, 0x00#8), (Reg.mode2, 0x00#8), (Reg.pwmBlue, 0x7F#8), (Reg.pwmGreen, 0x7F#8), (Reg.pwmRed, 0x7F#8),
    (Reg.ledOut, 0xAA#8)]

/-- The transactions of a request, in order: the six writes of ATTACH (R97), the one of TRANSACT (R93), the one or two
of SEND_CMD (R94). -/
def transfersOf : Request → List Transfer
  | .attach _ => initTable.map fun e => writeTransfer .backlight e.1 (zext10 e.2)
  | .transact .read sel reg _ => [readTransfer sel reg]
  | .transact .write sel reg value => [writeTransfer sel reg value]
  | .sendCmd tag payload => (wire tag payload).map fun e => writeTransfer .text e.1 (zext10 e.2)
  | .detach | .openSession | .closeSession => []

/-- The request's transactions are what DETACH may not fall under (R112): ATTACH, TRANSACT and SEND_CMD. -/
def usesTransport : Request → Bool
  | .attach _ | .transact .. | .sendCmd .. => true
  | .detach | .openSession | .closeSession => false

end Sys2Proof.Machine
end

