-- ==== Sys2Proof/Machine/Ops.lean ====
section
/-! DEFINITION. The named operations on the state: the requests in flight, the ideal responder's bytes, the bus
operation, the outputs and the response. -/

namespace Sys2Proof.Machine

/-- The outcome of a micro-step and of an instruction. -/
abbrev StepOutcome := Host.Outcome State Fault Refusal

/-- The next step of an outcome, applied to its next state. -/
def thenStep (o : StepOutcome) (f : State → StepOutcome) : StepOutcome :=
  match o with
  | .next s => f s
  | .fault r => .fault r
  | .refused r => .refused r

/-! ## Requests in flight -/

/-- The order the list of flights is kept in. -/
def portRank : Port → Nat
  | .lifecycle => 0
  | .enc => 1
  | .dec => 2
  | .client k => k + 3

/-- The request in flight on a port. -/
def flightOn (p : Port) : List (Port × Flight) → Option Flight
  | [] => none
  | (q, f) :: rest => if q = p then some f else flightOn p rest

/-- Put a flight on a port, in the place of the one there, else at the port's place in the order. -/
def setFlight (p : Port) (f : Flight) : List (Port × Flight) → List (Port × Flight)
  | [] => [(p, f)]
  | (q, g) :: rest =>
    if q = p then (p, f) :: rest
    else if portRank p < portRank q then (p, f) :: (q, g) :: rest
    else (q, g) :: setFlight p f rest

/-- Take the flight of a port away. -/
def clearFlight (p : Port) (fs : List (Port × Flight)) : List (Port × Flight) :=
  fs.filter fun e => e.1 ≠ p

/-- The one canonical form of the list of flights: ports strictly rising, so one request at a time on a port
(R55). -/
def flightsSorted (fs : List (Port × Flight)) : Bool :=
  match fs with
  | [] => true
  | (p, _) :: rest =>
    match rest with
    | [] => true
    | (q, _) :: _ => decide (portRank p < portRank q) && flightsSorted rest

/-- Some ATTACH, TRANSACT or SEND_CMD is in flight: it was presented and has no response yet (R112). -/
def transferInFlight (fs : List (Port × Flight)) : Bool :=
  fs.any fun e => usesTransport e.2.req

/-- Set the flight of port `p` to request `r` at micro-step `m`. -/
def advance (p : Port) (r : Request) (m : Micro) (s : State) : State :=
  { s with flights := setFlight p ⟨r, m⟩ s.flights }

/-! ## The ideal responder's bytes, R33 -/

/-- The address of a register as a number. -/
def key (a7 : BusAddr) (reg : Byte) : Nat :=
  a7.toNat * 256 + reg.toNat

/-- What an unlisted register reads as: no value; nothing has been written there (R33). Log 15. -/
def Memory.unwritten : Option Byte := none

/-- The byte last written to an address. -/
def Memory.read (a : Nat) : Memory → Option Byte
  | [] => Memory.unwritten
  | (k, b) :: rest => if k = a then some b else Memory.read a rest

/-- Store a byte, keeping the addresses strictly rising. -/
def Memory.write (a : Nat) (b : Byte) : Memory → Memory
  | [] => [(a, b)]
  | (k, c) :: rest =>
    if k = a then (a, b) :: rest
    else if a < k then (a, b) :: (k, c) :: rest
    else (k, c) :: Memory.write a b rest

/-- The canonical form: addresses strictly rising. An unlisted address has no value, so no entry can equal it. -/
def Memory.wf : Memory → Bool
  | [] => true
  | (k, _) :: rest =>
    match rest with
    | [] => true
    | (k', _) :: _ => decide (k < k') && Memory.wf rest

/-! ## The bus port, R31 to R33 -/

/-- An answer's signals as the response to an operation: `bus_rdata` is meaningful for a read only (R59). -/
def respOf (op : BusOp) : Answer → BusResp
  | .fail code => .fail code
  | .ok b =>
    match op with
    | .read _ _ => .okRead b
    | .write _ _ _ => .okWrite

/-- The responder's answer to a bus operation, `d` being the index free values are drawn by (R32, R33). -/
def answerTo (rsp : Responder) (d : Nat) (op : BusOp) : BusResp :=
  match rsp with
  | .blackBox [] => respOf op (Config.busAnswer d)
  | .blackBox (a :: _) => respOf op a
  | .ideal cells =>
    match op with
    | .read a7 reg => .okRead ((cells.read (key a7 reg)).getD (Config.freeByte d))
    | .write _ _ _ => .okWrite

/-- The responder after that bus operation. -/
def responderAfter (rsp : Responder) (op : BusOp) : Responder :=
  match rsp with
  | .blackBox answers => .blackBox answers.tail
  | .ideal cells =>
    match op with
    | .read _ _ => .ideal cells
    | .write a7 reg wdata => .ideal (cells.write (key a7 reg) wdata)

/-- The handle bus operations of a request go through (R80): the one ATTACH carries, else the one in DEV. With DEV
absent no rule gives a handle: a free value (log 12). -/
def handleFor (r : Request) (s : State) : Handle :=
  match r with
  | .attach h => h
  | _ => s.dev.getD (Config.freeHandle s.draws)

/-- The response the responder gives in state `s` to a bus operation. -/
def busResponse (op : BusOp) (s : State) : BusResp :=
  answerTo s.responder s.draws op

/-- Emit one bus operation through a handle (R31): it is answered and enters the bus trace. -/
def emitBus (h : Handle) (op : BusOp) (s : State) : State :=
  { s with
    responder := responderAfter s.responder op
    draws := s.draws + 1
    outputs := s.outputs ++ [.bus h op (busResponse op s)] }

/-! ## Responses and errors -/

/-- End the request on port `p` with a response (R9, R57): nothing of it stays in flight. -/
def respond (p : Port) (r : Response) (s : State) : State :=
  { s with flights := clearFlight p s.flights, outputs := s.outputs ++ [.response p r] }

/-- `raise E(info)` (R12, R109): taking an exception. LCDSEQ has no handler, saves nothing and changes no mode: the
error is delivered as the response of the request, and the state changes already made stay. There is no return from
one (R110). -/
def raiseError (p : Port) (e : Response) (s : State) : State :=
  respond p e s

/-- Append an output. -/
def output (o : Output) (s : State) : State :=
  { s with outputs := s.outputs ++ [o] }

/-- `require c` (R12): without it the request is refused. -/
def require (c : Bool) (why : Refusal) (k : StepOutcome) : StepOutcome :=
  if c then k else .refused why

end Sys2Proof.Machine
end

