-- ==== Sys2Proof/Machine/Transport.lean ====
section
/-! DEFINITION. The Register Transport (spec/41_transport.md): the micro-steps T1 to T4 of R80, the same for every
request that invokes READ or WRITE, and a transaction as one whole. -/

namespace Sys2Proof.Machine

/-- T1: wait until TLOCK = free; TLOCK <- held, in one action. It is the only micro-step that can be disabled (R80):
while TLOCK is held nothing happens. -/
def acquireStep (p : Port) (r : Request) (n : Nat) (s : State) : State :=
  match s.tlock with
  | .held => s
  | .free => advance p r (.xact n .retarget) { s with tlock := .held }

/-- T2: ADDR <- a7. -/
def retargetStep (p : Port) (r : Request) (n : Nat) (t : Transfer) (s : State) : State :=
  advance p r (.xact n .transfer) { s with addr := a7Of t.sel }

/-- T3: emit BusOp(ADDR, reg, kind, wdata) through the handle; receive BusResp. -/
def transferStep (p : Port) (r : Request) (n : Nat) (t : Transfer) (s : State) : State :=
  let op := busOpOf s.addr t
  advance p r (.xact n (.release (busResponse op s))) (emitBus (handleFor r s) op s)

/-- T4: TLOCK <- free, unconditionally. What the invoking operation does with the response follows in the same
micro-step (log 11). -/
def releaseStep (s : State) : State :=
  { s with tlock := .free }

/-- A transaction that runs on a free lock, as one whole (R80: T1 to T4 may be fused): its effect on everything but
the requests in flight. -/
def wholeTransfer (h : Handle) (t : Transfer) (s : State) : State :=
  emitBus h (busOpOf (a7Of t.sel) t) { s with addr := a7Of t.sel }

/-- The bus response such a transaction receives. -/
def wholeResponse (t : Transfer) (s : State) : BusResp :=
  busResponse (busOpOf (a7Of t.sel) t) s

end Sys2Proof.Machine
end

