-- ==== Sys2Proof/Machine/Lifecycle.lean ====
section
/-! DEFINITION. The Initialization Sequencer's micro-steps (spec/43_init_sequencer.md): ATTACH and DETACH. -/

namespace Sys2Proof.Machine

/-- ATTACH's first micro-step: `require DEV = absent` (R97, U3). -/
def attachStart (p : Port) (h : Handle) (s : State) : StepOutcome :=
  require s.dev.isNone .attachWhileAttached (.next (advance p (.attach h) (.xact 0 .acquire) s))

/-- After the write of INIT_STEP `n + 1`: a failure is logged and does not abort the sequence (R97, R98, R99); after
the sixth write A7 is next. -/
def attachAfter (p : Port) (h : Handle) (n : Nat) (reg : Byte) (resp : BusResp) (s : State) : StepOutcome :=
  .next (advance p (.attach h) (if n + 1 < initTable.length then .xact (n + 1) .acquire else .expose)
    { s with outputs := s.outputs ++ initLog (logStep n) reg resp })

/-- A7: DEV <- present(h); return OK (R97). SESS is not written. -/
def exposeStep (p : Port) (h : Handle) (s : State) : StepOutcome :=
  .next (respond p .ok { s with dev := some h })

/-- DETACH, one indivisible micro-step (R100): DEV <- absent, SESS.held <- false; ADDR is unspecified afterwards
(R21), a free value (log 2). With an ATTACH, TRANSACT or SEND_CMD in flight it has no meaning (R112, U4). -/
def detachStep (p : Port) (s : State) : StepOutcome :=
  require (!transferInFlight s.flights) .detachUnderTransfer
    (.next (respond p .ok
      { s with dev := none, held := false, addr := Config.freeAddr s.draws, draws := s.draws + 1 }))

end Sys2Proof.Machine
end

