-- ==== Sys2Proof/Machine/Session.lean ====
section
/-! DEFINITION. The Device Session Manager's micro-steps (spec/42_session.md): OPEN_SESSION, CLOSE_SESSION, TRANSACT
and SEND_CMD. -/

namespace Sys2Proof.Machine

/-- OPEN_SESSION S1, one indivisible test-and-set (R88). -/
def openS1 (p : Port) (s : State) : StepOutcome :=
  if s.held then .next (raiseError p .deviceBusy s)
  else .next (advance p .openSession .openS2 { s with held := true })

/-- OPEN_SESSION S2 (R88): with DEV absent the hold is released before DeviceNotReady is returned; otherwise OK, and
`held` is not written. -/
def openS2 (p : Port) (s : State) : StepOutcome :=
  match s.dev with
  | none => .next (raiseError p .deviceNotReady { s with held := false })
  | some _ => .next (respond p .ok s)

/-- CLOSE_SESSION, one micro-step (R92): `require SESS.held = true` (U2). -/
def closeStep (p : Port) (s : State) : StepOutcome :=
  require s.held .closeWhileClosed (.next (respond p .ok { s with held := false }))

/-- The write value has a meaning: always under `truncate`, up to 255 under `refuse` (R84, U10). -/
def valueAccepted (kind : Kind) (value : WriteValue) : Bool :=
  match kind, Config.wideValuePolicy with
  | .write, .refuse => valueInRange value
  | _, _ => true

/-- TRANSACT's first micro-step (R93): `require SESS.held = true` (U1), evaluated once, before T1 (log 10). -/
def transactStart (p : Port) (kind : Kind) (sel : Chip) (reg : Byte) (value : WriteValue) (s : State) : StepOutcome :=
  require s.held .transferWhileClosed
    (require (valueAccepted kind value) .wideValue
      (.next (advance p (.transact kind sel reg value) (.xact 0 .acquire) s)))

/-- TRANSACT after its transaction: the response is the transaction's outcome (R93). -/
def transactAfter (p : Port) (resp : BusResp) (s : State) : StepOutcome :=
  .next (respond p (transactResponse resp) s)

/-- SEND_CMD's first micro-step (R94): `require SESS.held = true`, as TRANSACT. -/
def sendStart (p : Port) (tag : Tag) (payload : Byte) (s : State) : StepOutcome :=
  require s.held .transferWhileClosed (.next (advance p (.sendCmd tag payload) (.xact 0 .acquire) s))

/-- SEND_CMD after its write `n` (R94): a BusError ends the request, the parameter write not issued and nothing
undone; otherwise the second write follows if there is one, else OK. -/
def sendAfter (p : Port) (tag : Tag) (payload : Byte) (n : Nat) (resp : BusResp) (s : State) : StepOutcome :=
  match resp with
  | .fail code => .next (raiseError p (.busError code) s)
  | .okRead _ | .okWrite =>
    if n + 1 < (wire tag payload).length then
      .next (advance p (.sendCmd tag payload) (.xact (n + 1) .acquire) s)
    else .next (respond p .ok s)

end Sys2Proof.Machine
end

