-- ==== Sys2Proof/Machine/Micro.lean ====
section
/-! DEFINITION. One micro-step of the request in flight on a port (R9, R22), the presenting of a request (R55, R56,
R112), and a request run with no other agent moving. -/

namespace Sys2Proof.Machine

/-- The first micro-step of each request. -/
def startStep (p : Port) (r : Request) (s : State) : StepOutcome :=
  match r with
  | .attach h => attachStart p h s
  | .detach => detachStep p s
  | .openSession => openS1 p s
  | .closeSession => closeStep p s
  | .transact kind sel reg value => transactStart p kind sel reg value s
  | .sendCmd tag payload => sendStart p tag payload s

/-- What the invoking operation does with a transaction's response (R80 T4: "then hand (status, rdata) back"). -/
def afterTransfer (p : Port) (r : Request) (n : Nat) (t : Transfer) (resp : BusResp) (s : State) : StepOutcome :=
  match r with
  | .attach h => attachAfter p h n t.reg resp s
  | .transact _ _ _ _ => transactAfter p resp s
  | .sendCmd tag payload => sendAfter p tag payload n resp s
  | .detach | .openSession | .closeSession => .refused .noSuchMicroStep

/-- T1 to T4 of the `n`-th transaction of a request (R80). -/
def xactStep (p : Port) (r : Request) (n : Nat) (ph : Phase) (s : State) : StepOutcome :=
  match (transfersOf r)[n]? with
  | none => .refused .noSuchMicroStep
  | some t =>
    match ph with
    | .acquire => .next (acquireStep p r n s)
    | .retarget => .next (retargetStep p r n t s)
    | .transfer => .next (transferStep p r n t s)
    | .release resp => afterTransfer p r n t resp (releaseStep s)

/-- The next micro-step of the request in flight on port `p`. With nothing in flight there, or a T1 that waits,
nothing happens. -/
def microStep (p : Port) (s : State) : StepOutcome :=
  match flightOn p s.flights with
  | none => .next s
  | some ⟨r, m⟩ =>
    match m with
    | .start => startStep p r s
    | .xact n ph => xactStep p r n ph s
    | .openS2 =>
      match r with
      | .openSession => openS2 p s
      | _ => .refused .noSuchMicroStep
    | .expose =>
      match r with
      | .attach h => exposeStep p h s
      | _ => .refused .noSuchMicroStep

/-- Present a request on port `p`, which the machine must have (R55): the host duties the state shows (R112). From here on it is in flight (R9). -/
def accept (p : Port) (r : Request) (s : State) : StepOutcome :=
  require (r.acceptedOn p && p.existsIn s.nclient) .notARequest
    (require (flightOn p s.flights).isNone .portBusy
      (require (r != .detach || !transferInFlight s.flights) .detachUnderTransfer
        (.next (advance p r .start s))))

/-- `fuel` micro-steps of the request on port `p` with no other agent moving. Once it has its response, or while it
waits at T1, a micro-step changes nothing. -/
def drive : Nat → Port → State → StepOutcome
  | 0, _, s => .next s
  | fuel + 1, p, s => thenStep (microStep p s) (drive fuel p)

/-- The most micro-steps a request has: ATTACH's first, four for each of six transactions, and A7. -/
def microBudget : Nat := 26

/-- A request presented on the port `s.port` and run with no other agent moving, to its response or to a T1 that
waits. -/
def runRequest (r : Request) (s : State) : StepOutcome :=
  thenStep (accept s.port r s) (drive microBudget s.port)

end Sys2Proof.Machine
end

