-- ==== Sys2Proof/Machine/Commands.lean ====
section
/-! DEFINITION. The meanings of the eight display commands (spec/40_codec.md section 4). What a command does depends
on the port it is presented on (R60, log 14): on the ENC port ENCODE's outputs, on the DEC port DECODE's outputs, on a
client port SEND_CMD of it. -/

namespace Sys2Proof.Machine

/-- A use of the ENC port (R58, R63). -/
def encPort (tag : Tag) (payload : Byte) (s : State) : StepOutcome :=
  .next (output (.enc (encodeRaw tag payload)) s)

/-- A use of the DEC port (R58, R64): a Command or one of the two errors; with no parameter byte for a `CMD1` opcode
no meaning (R68). -/
def decPort (opcode : Byte) (param : Option Byte) (s : State) : StepOutcome :=
  match decodeRaw opcode param with
  | .ok (tag, payload) => .next (output (.dec (.ok tag payload)) s)
  | .error .unknownOpcode => .next (output (.dec .unknownOpcode) s)
  | .error .reservedBitSet => .next (output (.dec .reservedBitSet) s)
  | .error _ => .refused .missingParameter

/-- A Command on the port `s.port`. On the DEC port its own bytes are what is decoded. -/
def runCommand (tag : Tag) (payload : Byte) (s : State) : StepOutcome :=
  match s.port with
  | .enc => encPort tag payload s
  | .dec => decPort (encodeRaw tag payload).opcode (encodeRaw tag payload).param? s
  | .client _ => runRequest (.sendCmd tag payload) s
  | .lifecycle => .refused .notARequest

/-- CLEAR_DISPLAY (R71). -/
def execClearDisplay (s : State) : StepOutcome :=
  runCommand 0#3 0x00#8 s

/-- RETURN_HOME (R72). -/
def execReturnHome (s : State) : StepOutcome :=
  runCommand 1#3 0x00#8 s

/-- ENTRY_MODE_SET (R73). -/
def execEntryModeSet (idFlag shiftEntireDisplay : Bool) (s : State) : StepOutcome :=
  runCommand 2#3 (entryModeSetParam idFlag shiftEntireDisplay) s

/-- DISPLAY_ON_OFF_CTL (R74). -/
def execDisplayOnOffCtl (displayOnOff cursorOnOff cursorBlinkOnOff : Bool) (s : State) : StepOutcome :=
  runCommand 3#3 (displayOnOffCtlParam displayOnOff cursorOnOff cursorBlinkOnOff) s

/-- CURSOR_OR_DISPLAY_SHIFT (R75). -/
def execCursorOrDisplayShift (rlSel scrollOrShiftSel : Bool) (s : State) : StepOutcome :=
  runCommand 4#3 (cursorOrDisplayShiftParam rlSel scrollOrShiftSel) s

/-- FUNCTION_SET (R76). -/
def execFunctionSet (formatMode lineNumber dataLength : Bool) (s : State) : StepOutcome :=
  runCommand 5#3 (functionSetParam formatMode lineNumber dataLength) s

/-- SET_CGRAM_ADDRESS (R77). -/
def execSetCgramAddress (address : BitVec 5) (s : State) : StepOutcome :=
  runCommand 6#3 (setCgramAddressParam address) s

/-- SET_DDRAM_ADDRESS (R78). -/
def execSetDdramAddress (address : BitVec 6) (s : State) : StepOutcome :=
  runCommand 7#3 (setDdramAddressParam address) s

end Sys2Proof.Machine
end

