-- ==== Sys2Proof/Machine/Requests.lean ====
section
/-! DEFINITION. The meanings of the six requests (spec/42_session.md, spec/43_init_sequencer.md): presented on the
port `s.port` and run with no other agent moving. Their micro-steps are in Lifecycle.lean and Session.lean. -/

namespace Sys2Proof.Machine

/-- ATTACH (R97). -/
def execAttach (h : Handle) (s : State) : StepOutcome :=
  runRequest (.attach h) s

/-- DETACH (R100). -/
def execDetach (s : State) : StepOutcome :=
  runRequest .detach s

/-- OPEN_SESSION (R88). -/
def execOpenSession (s : State) : StepOutcome :=
  runRequest .openSession s

/-- CLOSE_SESSION (R92). -/
def execCloseSession (s : State) : StepOutcome :=
  runRequest .closeSession s

/-- TRANSACT (R93): READ (R82) or WRITE (R83), PUTC (R95) among the writes. -/
def execTransact (kind : Kind) (sel : Chip) (reg : Byte) (value : WriteValue) (s : State) : StepOutcome :=
  runRequest (.transact kind sel reg value) s

/-- SEND_CMD (R94). -/
def execSendCmd (tag : Tag) (payload : Byte) (s : State) : StepOutcome :=
  runRequest (.sendCmd tag payload) s

end Sys2Proof.Machine
end

