-- ==== Sys2Proof/Machine/Dispatch.lean ====
section
/-! DEFINITION. One arm per constructor of Instr. -/

namespace Sys2Proof.Machine

def exec (i : Instr) (s : State) : Host.Outcome State Fault Refusal :=
  match i with
  | .clearDisplay => Sys2Proof.Machine.execClearDisplay s
  | .returnHome => Sys2Proof.Machine.execReturnHome s
  | .entryModeSet a b => Sys2Proof.Machine.execEntryModeSet a b s
  | .displayOnOffCtl a b c => Sys2Proof.Machine.execDisplayOnOffCtl a b c s
  | .cursorOrDisplayShift a b => Sys2Proof.Machine.execCursorOrDisplayShift a b s
  | .functionSet a b c => Sys2Proof.Machine.execFunctionSet a b c s
  | .setCgramAddress a => Sys2Proof.Machine.execSetCgramAddress a s
  | .setDdramAddress a => Sys2Proof.Machine.execSetDdramAddress a s
  | .attach h => Sys2Proof.Machine.execAttach h s
  | .detach => Sys2Proof.Machine.execDetach s
  | .openSession => Sys2Proof.Machine.execOpenSession s
  | .closeSession => Sys2Proof.Machine.execCloseSession s
  | .transact kind sel reg value => Sys2Proof.Machine.execTransact kind sel reg value s
  | .sendCmd tag payload => Sys2Proof.Machine.execSendCmd tag payload s

end Sys2Proof.Machine
end

