-- ==== Sys2Proof/Machine/Fetch.lean ====
section
/-! DEFINITION. What the next event asks for: LCDSEQ fetches no instructions (R15); it executes what is presented on
its ports, and the next thing presented, or the next micro-step scheduled, is the head of `events` (log 8). -/

namespace Sys2Proof.Machine

/-- What an event asks of the machine. -/
inductive Fetched where
  /-- Execute an instruction on a port. -/
  | instr (p : Port) (i : Instr)
  /-- Take a request into flight on a port. -/
  | present (p : Port) (r : Request)
  /-- One micro-step of the request in flight on a port. -/
  | grant (p : Port)
  /-- An error output of the DEC port. -/
  | decError (o : DecOut)
  /-- No meaning. -/
  | refuse (why : Refusal)
  deriving DecidableEq, Repr

/-- The decoding of an event (R56, R58, R60, R64). -/
def fetch : Event → Fetched
  | .run p r =>
    match decodeRequest p r with
    | .ok q => .instr p q.toInstr
    | .error _ => .refuse .notARequest
  | .issue p r =>
    match decodeRequest p r with
    | .ok q => .present p q
    | .error _ => .refuse .notARequest
  | .grant p => .grant p
  | .cmd k opcode param =>
    match decodeCommand opcode param with
    | .ok i => .instr (.client k) i
    | .error _ => .refuse .notACommand
  | .enc tag payload => .instr .enc (commandOf tag payload)
  | .dec opcode param =>
    match decodeCommand opcode param with
    | .ok i => .instr .dec i
    | .error .unknownOpcode => .decError .unknownOpcode
    | .error .reservedBitSet => .decError .reservedBitSet
    | .error _ => .refuse .missingParameter

/-- The port an event is about. -/
def eventPort : Event → Port
  | .run p _ | .issue p _ | .grant p => p
  | .cmd k _ _ => .client k
  | .enc _ _ => .enc
  | .dec _ _ => .dec

/-- The state in which the fetched event is executed: the event is taken off the list, and its port is the port
served. -/
def serve (ev : Event) (rest : List Event) (s : State) : State :=
  { s with events := rest, port := eventPort ev }

/-- The port a request record of the table is presented on: the one of its operation's kind (R56). -/
def tablePort (r : RequestRecord) : Port :=
  if r.op.toNat < 2 then .lifecycle else .client 0

/-- The event that presents a word of spec/opcode_table.json: a command's word on the DEC port, a request's on a port
of its kind (log 18). -/
def tableEvent (nbits w : Nat) : Event :=
  match tableWord nbits w with
  | some (.command opcode param) => .dec opcode param
  | some (.request r) => .run (tablePort r) r
  | none => .dec 0x00#8 none

end Sys2Proof.Machine
end

