-- ==== Sys2Proof/Machine/Step.lean ====
section
/-! DEFINITION. One step: the next event of the list. -/

namespace Sys2Proof.Machine

/-- One step (R9). With no event left no agent moves, and the machine stays as it is. -/
def step (s : State) : Host.Outcome State Fault Refusal :=
  match s.events with
  | [] => .next s
  | ev :: rest =>
    match fetch ev with
    | .instr _ i => exec i (serve ev rest s)
    | .present p r => accept p r (serve ev rest s)
    | .grant p => microStep p (serve ev rest s)
    | .decError o => .next (output (.dec o) (serve ev rest s))
    | .refuse why => .refused why

/-- The state whose next step runs the instruction of a word of spec/opcode_table.json: the event that presents it is
put before the others (log 18). -/
def State.withFetchWord (s : State) (nbits w : Nat) : State :=
  { s with events := tableEvent nbits w :: s.events }

end Sys2Proof.Machine
end

