-- ==== Sys2Proof/Safety.lean ====
section
/-! DEFINITION. What the statements call a good state: the invariants of spec/10_state.md R20, R21 and R24, the
canonical forms, and the addresses on the bus (R26). -/

namespace Sys2Proof.Machine

/-- The machine has the port, and nothing is in flight on it. -/
abbrev idle (p : Port) (s : State) : Prop :=
  p.existsIn s.nclient = true ∧ flightOn p s.flights = none

/-- The micro-step index is one of the request's own (R22). -/
def microFits (r : Request) (m : Micro) : Bool :=
  match m with
  | .start => true
  | .xact n _ => decide (n < (transfersOf r).length)
  | .openS2 => r == .openSession
  | .expose =>
    match r with
    | .attach _ => true
    | _ => false

/-- The list of flights is canonical, each request stands on a port of the machine, of its kind, and at a micro-step of its own. -/
abbrev FlightsWf (s : State) : Prop :=
  flightsSorted s.flights = true ∧
    ∀ e ∈ s.flights, e.1.existsIn s.nclient = true ∧ e.2.req.acceptedOn e.1 = true ∧ microFits e.2.req e.2.micro = true

/-- Between acquire and release of TLOCK: T2, T3 or T4 is next (R24 I2). -/
def holdsLock : Micro → Bool
  | .xact _ .retarget | .xact _ .transfer | .xact _ (.release _) => true
  | _ => false

/-- TLOCK is held exactly while one request is between acquire and release, and there is never a second (R20, R24
I2). -/
abbrev LockInv (s : State) : Prop :=
  s.flights.countP (fun e => holdsLock e.2.micro) = if s.tlock = .held then 1 else 0

/-- The chip a request at T3 or T4 has put into ADDR. -/
def retargeted (f : Flight) : Option Chip :=
  match f.micro with
  | .xact n .transfer | .xact n (.release _) => ((transfersOf f.req)[n]?).map Transfer.sel
  | _ => none

/-- "the address in effect for a transaction must match the intended sub-chip before the transaction executes"
(R21). -/
abbrev AddrInv (s : State) : Prop :=
  ∀ e ∈ s.flights, ∀ c ∈ retargeted e.2, s.addr = a7Of c

/-- The Register Transport's invariant. -/
abbrev TransportInv (s : State) : Prop :=
  FlightsWf s ∧ LockInv s ∧ AddrInv s

/-- I1 of R24: a session that is held with no OPEN_SESSION between its micro-steps is held on an attached device. -/
abbrev SessionHeldInv (s : State) : Prop :=
  s.held = true → (∀ e ∈ s.flights, e.2.micro ≠ .openS2) → s.dev.isSome = true

/-- The request is an ATTACH past its first micro-step. -/
def attaching (f : Flight) : Bool :=
  match f.req with
  | .attach _ => f.micro != .start
  | _ => false

/-- The first half of I3 of R24: while an ATTACH is running, DEV is absent. -/
abbrev AttachInv (s : State) : Prop :=
  ∀ e ∈ s.flights, attaching e.2 = true → s.dev = none

/-- The Device Session Manager's invariant. -/
abbrev SessionInv (s : State) : Prop :=
  FlightsWf s ∧ SessionHeldInv s ∧ AttachInv s

/-- The bus address of an operation. -/
def BusOp.a7 : BusOp → BusAddr
  | .read a7 _ | .write a7 _ _ => a7

/-- The bus operations among the outputs, in order: the bus trace (R31). -/
def busTrace (outs : List Output) : List BusOp :=
  outs.filterMap fun o =>
    match o with
    | .bus _ op _ => some op
    | _ => none

/-- The responses among the outputs, in order. -/
def responses (outs : List Output) : List (Port × Response) :=
  outs.filterMap fun o =>
    match o with
    | .response p r => some (p, r)
    | _ => none

/-- Every bus operation seen so far went to 0x3E or 0x62 (R26). -/
abbrev TraceInv (s : State) : Prop :=
  ∀ op ∈ busTrace s.outputs, op.a7 = 0x3E#7 ∨ op.a7 = 0x62#7

/-- The initialisation step a log event names, with its register (R96, R99). -/
def logEventFits : Output → Bool
  | .log step reg _ => decide (1 ≤ step.toNat) && ((initTable[step.toNat - 1]?).map Prod.fst == some reg)
  | .response .. | .bus .. | .enc _ | .dec _ => true

/-- Every log event seen so far has a `log_step` of 1 to 6 and that step's register (R59, R99). -/
abbrev LogInv (s : State) : Prop :=
  ∀ o ∈ s.outputs, logEventFits o = true

/-- The ideal responder's bytes are in canonical form. -/
def responderWf : Responder → Bool
  | .blackBox _ => true
  | .ideal cells => Memory.wf cells

/-- A safe state: what every run from reset is claimed to keep. -/
abbrev Safe (s : State) : Prop :=
  TransportInv s ∧ SessionInv s ∧ TraceInv s ∧ LogInv s ∧ responderWf s.responder = true

/-- No request is in flight: a run has ended (R123). -/
abbrev quiet (s : State) : Prop :=
  s.flights = []

/-- `k` steps of the machine, up to the first refusal. -/
def runSteps : Nat → State → StepOutcome
  | 0, s => .next s
  | k + 1, s => thenStep (step s) (runSteps k)

end Sys2Proof.Machine
end

