-- ==== Sys2Proof/Certificates/Slice0/Obligations.lean ====
section
/-! DEFINITION. The statements for the provers, from the numbered rules of spec/. -/

open Sys2Proof Sys2Proof.Machine

/-! ## The words the statements are written with -/

namespace Sys2Proof.Expected

/-- One write of byte `b` to a register, done whole: `ADDR` is retargeted, one bus operation goes out through `h` and is
answered (R83). -/
def wrote (h : Handle) (a7 : BusAddr) (reg b : Byte) (s : State) : State :=
  { s with
    addr := a7
    responder := responderAfter s.responder (.write a7 reg b)
    draws := s.draws + 1
    outputs := s.outputs ++ [.bus h (.write a7 reg b) (answerTo s.responder s.draws (.write a7 reg b))] }

/-- The responder's answer to that write. -/
def writeAnswer (a7 : BusAddr) (reg b : Byte) (s : State) : BusResp :=
  answerTo s.responder s.draws (.write a7 reg b)

/-- One read of a register, done whole (R82). -/
def didRead (h : Handle) (a7 : BusAddr) (reg : Byte) (s : State) : State :=
  { s with
    addr := a7
    responder := responderAfter s.responder (.read a7 reg)
    draws := s.draws + 1
    outputs := s.outputs ++ [.bus h (.read a7 reg) (answerTo s.responder s.draws (.read a7 reg))] }

/-- The responder's answer to that read. -/
def readAnswer (a7 : BusAddr) (reg : Byte) (s : State) : BusResp :=
  answerTo s.responder s.draws (.read a7 reg)

/-- A response is delivered on port `p`; nothing else happens. -/
def said (p : Port) (r : Response) (s : State) : State :=
  { s with outputs := s.outputs ++ [.response p r] }

/-- The handle of a client's transfer: the one in DEV; a free value where DEV is absent (log 12). -/
def handleOf (s : State) : Handle :=
  s.dev.getD (Config.freeHandle s.draws)

/-- The chip's bus address, written out (R26). -/
def addressOf (sel : Chip) : BusAddr :=
  if sel = .text then 0x3E#7 else 0x62#7

/-- The request waits at T1 of its first transaction: it is in flight, and nothing else has changed. -/
def waitingAtT1 (p : Port) (r : Request) (s : State) : State :=
  { s with flights := setFlight p ⟨r, .xact 0 .acquire⟩ s.flights }

/-- One byte sent to DISPLAY and the response: OK, or the write's BusError (R94, a `CMD0` command). -/
def sentOne (p : Port) (opcode : Byte) (s : State) : State :=
  match writeAnswer 0x3E#7 0x80#8 opcode s with
  | .fail code => said p (.busError code) (wrote (handleOf s) 0x3E#7 0x80#8 opcode s)
  | .okRead _ | .okWrite => said p .ok (wrote (handleOf s) 0x3E#7 0x80#8 opcode s)

/-- The opcode byte sent to DISPLAY, then, if that did not fail, the parameter byte, and the response (R94, a `CMD1`
command). -/
def sentTwo (p : Port) (opcode param : Byte) (s : State) : State :=
  match writeAnswer 0x3E#7 0x80#8 opcode s with
  | .fail code => said p (.busError code) (wrote (handleOf s) 0x3E#7 0x80#8 opcode s)
  | .okRead _ | .okWrite => sentOne p param (wrote (handleOf s) 0x3E#7 0x80#8 opcode s)

/-- What the initialisation writes put out: each write with its answer, and after a failed one its log event
(R97, R99). -/
def initOutputs (h : Handle) : List (Byte × Byte) → LogStep → Responder → Nat → List Output
  | [], _, _, _ => []
  | (reg, value) :: rest, step, rsp, d =>
    .bus h (.write 0x62#7 reg value) (answerTo rsp d (.write 0x62#7 reg value)) ::
      ((match answerTo rsp d (.write 0x62#7 reg value) with
        | .fail code => [.log step reg code]
        | .okRead _ | .okWrite => []) ++
        initOutputs h rest (step + 1#3) (responderAfter rsp (.write 0x62#7 reg value)) (d + 1))

/-- The initialisation table of R96, written out. -/
def table : List (Byte × Byte) :=
  [(0x00#8, 0x00#8), (0x01#8, 0x00#8), (0x02#8, 0x7F#8), (0x03#8, 0x7F#8), (0x04#8, 0x7F#8), (0x05#8, 0xAA#8)]

/-- The six bus operations of R96, written out. -/
def initOps : List BusOp :=
  [.write 0x62#7 0x00#8 0x00#8, .write 0x62#7 0x01#8 0x00#8, .write 0x62#7 0x02#8 0x7F#8,
    .write 0x62#7 0x03#8 0x7F#8, .write 0x62#7 0x04#8 0x7F#8, .write 0x62#7 0x05#8 0xAA#8]

/-- A byte made of three flag bits from bit `pos` up. -/
def bits3 (lo mid hi : Bool) (pos : Nat) : Byte :=
  BitVec.ofNat 8 ((lo.toNat + 2 * mid.toNat + 4 * hi.toNat) * 2 ^ pos)

/-- What an answered transaction of a TRANSACT is answered with (R82, R83): the byte of a read, OK for a write, the
BusError with the code unchanged. -/
def answered : BusResp → Response
  | .okRead b => .okData b
  | .okWrite => .ok
  | .fail code => .busError code

/-- The log event a failed initialisation write leaves (R99). -/
def logged (step : LogStep) (reg : Byte) : BusResp → List Output
  | .fail code => [.log step reg code]
  | .okRead _ | .okWrite => []

/-- `k` steps of the machine from a state with these events. -/
def runFrom (k : Nat) (events : List Event) (s : State) : StepOutcome :=
  runSteps k { s with events := events }

/-- Two outcomes differ at most in ADDR. -/
def sameButAddr : StepOutcome → StepOutcome → Prop
  | .next t, .next t' => t' = { t with addr := t'.addr }
  | .refused r, .refused r' => r = r'
  | _, _ => False

end Sys2Proof.Expected

open Sys2Proof.Expected

/-! ## The codec -/

/-- R63, with R48's opcodes and masks written out: the opcode is `1 << tag`, a parameter is present from tag 2 on, and
it is the payload with the unused bits forced to zero; a well-formed payload is unchanged. -/
def Obligations.EncodeGivesOpcodeAndMaskedPayload : Prop :=
  ∀ (tag : Tag) (payload : Byte),
    (encodeRaw tag payload).opcode =
      [0x01#8, 0x02#8, 0x04#8, 0x08#8, 0x10#8, 0x20#8, 0x40#8, 0x80#8].getD tag.toNat 0#8 ∧
    (encodeRaw tag payload).paramPresent = decide (tag.toNat ≥ 2) ∧
    (encodeRaw tag payload).param =
      payload &&& [0x00#8, 0x00#8, 0x03#8, 0x07#8, 0x0C#8, 0x1C#8, 0x1F#8, 0x3F#8].getD tag.toNat 0#8 ∧
    (rawWellFormed tag payload = true → (encodeRaw tag payload).param = payload)

/-- R69: the 122 well-formed raw Commands decode from their encodings, and every accepted input re-encodes to itself but
the two of R67. -/
def Obligations.CodecRoundTrip : Prop :=
  (∀ (tag : Tag) (payload : Byte), rawWellFormed tag payload = true →
    decodeRaw (encodeRaw tag payload).opcode (encodeRaw tag payload).param? = .ok (tag, payload)) ∧
  ((List.range 8).map fun t =>
    (List.range 256).countP fun b => rawWellFormed (BitVec.ofNat 3 t) (BitVec.ofNat 8 b)).sum = 122 ∧
  (∀ (opcode : Byte) (param : Option Byte) (tag : Tag) (payload : Byte),
    decodeRaw opcode param = .ok (tag, payload) →
    ((encodeRaw tag payload).opcode = opcode ∧
      ((encodeRaw tag payload).param? = param ↔ ¬ (param = some 0x00#8 ∧ (opcode = 0x01#8 ∨ opcode = 0x02#8))) ∧
      (param = some 0x00#8 ∧ (opcode = 0x01#8 ∨ opcode = 0x02#8) → (encodeRaw tag payload).param? = none)))

/-- Every instruction, with every operand at every value, is what its encoding decodes to (R45, R48, R50, R56). -/
def Obligations.EveryInstructionDecodesFromItsEncoding : Prop :=
  ∀ i : Instr, decode (encode i) = .ok i

/-- R105, R53: DECODE answers UnknownOpcode exactly for an opcode byte with zero or two or more bits set, whatever the
parameter; the other bytes are the eight opcodes. -/
def Obligations.UnknownOpcodeExactlyUnlessOneBit : Prop :=
  ∀ (opcode : Byte) (param : Option Byte),
    (decodeRaw opcode param = .error .unknownOpcode ↔ popcount opcode ≠ 1) ∧
    (popcount opcode = 1 ↔
      opcode ∈ [0x01#8, 0x02#8, 0x04#8, 0x08#8, 0x10#8, 0x20#8, 0x40#8, 0x80#8])

/-- R106: DECODE answers ReservedBitSet exactly for a valid opcode whose parameter byte has a reserved bit set; for
CLEAR_DISPLAY and RETURN_HOME every bit is reserved. -/
def Obligations.ReservedBitSetExactlyForReservedBits : Prop :=
  ∀ (opcode : Byte) (param : Option Byte),
    decodeRaw opcode param = .error .reservedBitSet ↔
      ∃ (tag : Tag) (b : Byte), opcode = 1#8 <<< tag.toNat ∧ param = some b ∧
        b &&& ~~~([0x00#8, 0x00#8, 0x03#8, 0x07#8, 0x0C#8, 0x1C#8, 0x1F#8, 0x3F#8].getD tag.toNat 0#8) ≠ 0#8

/-- R68: a `CMD1` opcode with no parameter byte has no meaning: DECODE gives neither a Command nor one of its two
errors, and a use of the DEC port with it is refused. -/
def Obligations.MissingParameterIsRefused : Prop :=
  ∀ opcode ∈ [0x04#8, 0x08#8, 0x10#8, 0x20#8, 0x40#8, 0x80#8], ∀ (es : List Event) (s : State),
    decodeRaw opcode none = .error .missingParameter ∧
    step { s with events := .dec opcode none :: es } = .refused .missingParameter

/-- Words written out from R51, R56 and 95_test_vectors.md E6, E7 decode to the instructions they stand for. -/
def Obligations.SpecWordsDecode : Prop :=
  decodeCommand 0x04#8 (some 0x01#8) = .ok (.entryModeSet true false) ∧
  decodeCommand 0x20#8 (some 0x18#8) = .ok (.functionSet false true true) ∧
  decodeCommand 0x08#8 (some 0x05#8) = .ok (.displayOnOffCtl true false true) ∧
  decodeCommand 0x10#8 (some 0x0C#8) = .ok (.cursorOrDisplayShift true true) ∧
  decodeCommand 0x40#8 (some 0x09#8) = .ok (.setCgramAddress 9#5) ∧
  decodeCommand 0x80#8 (some 0x28#8) = .ok (.setDdramAddress 0x28#6) ∧
  decodeCommand 0x01#8 none = .ok .clearDisplay ∧
  decodeCommand 0x02#8 none = .ok .returnHome ∧
  (∀ h : Handle, decodeRequest .lifecycle { op := 0x0#4, handle := h } = .ok (.attach h)) ∧
  decodeRequest (.client 0) { op := 0x4#4, kind := 1#1, sel := 1#1, reg := 0x04#8, value := 0x0FF#10 } =
    .ok (.transact .write .backlight 0x04#8 0x0FF#10) ∧
  decodeRequest (.client 0) { op := 0x5#4, tag := 5#3, payload := 0x18#8 } = .ok (.sendCmd 5#3 0x18#8) ∧
  decodeRequest (.client 0) { op := 0x6#4 } = .error .notARequest ∧
  decodeRequest (.client 0) { op := 0x0#4 } = .error .notARequest

/-- R61: the word of every instruction matches the row of its mnemonic, and, among the rows of that width, no other. -/
def Obligations.EveryWordMatchesItsRowAlone : Prop :=
  ∀ i : Instr, ∃ row ∈ commandRows ++ requestRows,
    row.mnemonic = i.mnemonic ∧ row.width = (encode i).word.1 ∧ row.matches (encode i).word.2 = true ∧
    ∀ row' ∈ commandRows ++ requestRows, row'.width = (encode i).word.1 →
      row'.matches (encode i).word.2 = true → row' = row

/-- R47: the opcode byte alone gives the length of a command: one byte for 0x01 and 0x02, two for the other six opcodes,
none for any other byte. A stream is cut by that length whatever the parameter byte is, so DECODE's result on the bytes cut,
ReservedBitSet among them, comes with the bytes that follow; at an invalid opcode byte nothing is cut. A command's own bytes
give that command. -/
def Obligations.StreamIsCutByOpcode : Prop :=
  (∀ opcode : Byte, commandLength opcode =
    if opcode ∈ [0x01#8, 0x02#8] then some 1
    else if opcode ∈ [0x04#8, 0x08#8, 0x10#8, 0x20#8, 0x40#8, 0x80#8] then some 2
    else none) ∧
  (∀ (opcode : Byte) (rest : List Byte), commandLength opcode = some 1 →
    decodeBytes (opcode :: rest) = .ok (decodeCommand opcode none, rest)) ∧
  (∀ (opcode b : Byte) (rest : List Byte), commandLength opcode = some 2 →
    decodeBytes (opcode :: b :: rest) = .ok (decodeCommand opcode (some b), rest)) ∧
  (∀ (opcode : Byte) (rest : List Byte), commandLength opcode = none →
    decodeBytes (opcode :: rest) = .error .unknownOpcode) ∧
  (∀ (i : Instr) (c : Tag × Byte) (rest : List Byte), i.raw? = some c →
    decodeBytes ((encode i).bytes ++ rest) = .ok (.ok i, rest))

/-- R131: what SEND_CMD puts on DISPLAY is a valid encoding, for every raw Command. The bytes of ENCODE decode to the
Command with the unused payload bits cleared; SEND_CMD's transactions are the writes of these bytes to TEXT register 0x80;
and a SEND_CMD run on an open session puts just these writes on the bus, from the first one on (all of them unless one
fails). Running a request whole is the model's choice, log 8. -/
def Obligations.SendCmdBytesAreAValidEncoding : Prop :=
  ∀ (tag : Tag) (payload : Byte),
    decodeRaw (encodeRaw tag payload).opcode (encodeRaw tag payload).param? = .ok (tag, payload &&& maskOf tag) ∧
    transfersOf (.sendCmd tag payload) =
      (encodeRaw tag payload).bytes.map (fun b => ⟨.text, 0x80#8, .write b⟩) ∧
    (∀ (k : Nat) (s : State), s.port = .client k → idle (.client k) s → s.held = true → s.tlock = .free →
      ∃ (t : State) (n : Nat), exec (.sendCmd tag payload) s = .next t ∧ 1 ≤ n ∧
        busTrace t.outputs = busTrace s.outputs ++
          ((encodeRaw tag payload).bytes.take n).map (.write 0x3E#7 0x80#8) ∧
        ((encodeRaw tag payload).bytes.length ≤ n ∨
          ∃ code, responses t.outputs = responses s.outputs ++ [(.client k, .busError code)]))

/-- R57: the status code of every response, and of the DEC port's outputs; 6 and 7 never occur. -/
def Obligations.StatusCodesOfResponses : Prop :=
  (∀ r : Response, statusCode (responseStatus r) =
    match r with
    | .ok => 0#3
    | .okData _ => 0#3
    | .busError _ => 1#3
    | .deviceBusy => 2#3
    | .deviceNotReady => 3#3) ∧
  (∀ o : DecOut, statusCode (decStatus o) =
    match o with
    | .ok _ _ => 0#3
    | .unknownOpcode => 4#3
    | .reservedBitSet => 5#3) ∧
  ∀ st : Status, statusCode st ≠ 6#3 ∧ statusCode st ≠ 7#3

/-! ## The codec ports -/

/-- R58, R63: a use of the ENC port puts out ENCODE of the raw Command presented, well-formed or not, and changes
nothing else. -/
def Obligations.EncPortPutsOutEncode : Prop :=
  ∀ (tag : Tag) (payload : Byte) (es : List Event) (s : State),
    step { s with events := .enc tag payload :: es } =
      .next { s with events := es, port := .enc, outputs := s.outputs ++ [.enc (encodeRaw tag payload)] }

/-- R58, R64: a use of the DEC port puts out DECODE's result, a Command or one of the two errors, and changes nothing
else. -/
def Obligations.DecPortPutsOutDecode : Prop :=
  ∀ (opcode : Byte) (param : Option Byte) (es : List Event) (s : State),
    (∀ tag payload, decodeRaw opcode param = .ok (tag, payload) →
      step { s with events := .dec opcode param :: es } =
        .next { s with events := es, port := .dec, outputs := s.outputs ++ [.dec (.ok tag payload)] }) ∧
    (decodeRaw opcode param = .error .unknownOpcode →
      step { s with events := .dec opcode param :: es } =
        .next { s with events := es, port := .dec, outputs := s.outputs ++ [.dec .unknownOpcode] }) ∧
    (decodeRaw opcode param = .error .reservedBitSet →
      step { s with events := .dec opcode param :: es } =
        .next { s with events := es, port := .dec, outputs := s.outputs ++ [.dec .reservedBitSet] })

/-- R71 to R78: each command on the ENC port runs in every state, puts out its opcode byte and its parameter byte, and
changes nothing else. That a command row stands for a use of the port it is presented on is the model's choice, log 14. -/
def Obligations.CommandsOnEncPort : Prop :=
  ∀ s : State, s.port = .enc →
    exec .clearDisplay s = .next { s with outputs := s.outputs ++ [.enc ⟨0x01#8, false, 0x00#8⟩] } ∧
    exec .returnHome s = .next { s with outputs := s.outputs ++ [.enc ⟨0x02#8, false, 0x00#8⟩] } ∧
    (∀ i sh, exec (.entryModeSet i sh) s =
      .next { s with outputs := s.outputs ++ [.enc ⟨0x04#8, true, bits3 i sh false 0⟩] }) ∧
    (∀ d c b, exec (.displayOnOffCtl d c b) s =
      .next { s with outputs := s.outputs ++ [.enc ⟨0x08#8, true, bits3 d c b 0⟩] }) ∧
    (∀ r sc, exec (.cursorOrDisplayShift r sc) s =
      .next { s with outputs := s.outputs ++ [.enc ⟨0x10#8, true, bits3 r sc false 2⟩] }) ∧
    (∀ f n d, exec (.functionSet f n d) s =
      .next { s with outputs := s.outputs ++ [.enc ⟨0x20#8, true, bits3 f n d 2⟩] }) ∧
    (∀ a, exec (.setCgramAddress a) s =
      .next { s with outputs := s.outputs ++ [.enc ⟨0x40#8, true, BitVec.ofNat 8 a.toNat⟩] }) ∧
    (∀ a, exec (.setDdramAddress a) s =
      .next { s with outputs := s.outputs ++ [.enc ⟨0x80#8, true, BitVec.ofNat 8 a.toNat⟩] })

/-- R71 to R78: each command on the DEC port runs in every state, puts out its tag and payload with status OK, and
changes nothing else. That a command row stands for a use of the port it is presented on is the model's choice, log 14. -/
def Obligations.CommandsOnDecPort : Prop :=
  ∀ s : State, s.port = .dec →
    exec .clearDisplay s = .next { s with outputs := s.outputs ++ [.dec (.ok 0#3 0x00#8)] } ∧
    exec .returnHome s = .next { s with outputs := s.outputs ++ [.dec (.ok 1#3 0x00#8)] } ∧
    (∀ i sh, exec (.entryModeSet i sh) s =
      .next { s with outputs := s.outputs ++ [.dec (.ok 2#3 (bits3 i sh false 0))] }) ∧
    (∀ d c b, exec (.displayOnOffCtl d c b) s =
      .next { s with outputs := s.outputs ++ [.dec (.ok 3#3 (bits3 d c b 0))] }) ∧
    (∀ r sc, exec (.cursorOrDisplayShift r sc) s =
      .next { s with outputs := s.outputs ++ [.dec (.ok 4#3 (bits3 r sc false 2))] }) ∧
    (∀ f n d, exec (.functionSet f n d) s =
      .next { s with outputs := s.outputs ++ [.dec (.ok 5#3 (bits3 f n d 2))] }) ∧
    (∀ a, exec (.setCgramAddress a) s =
      .next { s with outputs := s.outputs ++ [.dec (.ok 6#3 (BitVec.ofNat 8 a.toNat))] }) ∧
    (∀ a, exec (.setDdramAddress a) s =
      .next { s with outputs := s.outputs ++ [.dec (.ok 7#3 (BitVec.ofNat 8 a.toNat))] })

/-! ## Commands sent by a client -/

/-- R94 with R71, R72: CLEAR_DISPLAY and RETURN_HOME on a client port with the session open send one byte to DISPLAY and
answer OK or that write's BusError; only ADDR, the responder, its counter and the outputs change. That a command on a
client port is SEND_CMD of it is R60 read as the model's choice, log 14; the handle where DEV is absent is free, log 12. -/
def Obligations.OneByteCommandsSendTheirOpcode : Prop :=
  ∀ (k : Nat) (s : State), s.port = .client k → idle (.client k) s → s.held = true → s.tlock = .free →
    exec .clearDisplay s = .next (sentOne (.client k) 0x01#8 s) ∧
    exec .returnHome s = .next (sentOne (.client k) 0x02#8 s)

/-- R94 with R73 to R78: the other six commands on a client port with the session open send the opcode byte, then the
parameter byte unless the first write failed, and answer OK or the first BusError. The model's choices in it: logs 12
and 14. -/
def Obligations.TwoByteCommandsSendOpcodeThenParameter : Prop :=
  ∀ (k : Nat) (s : State), s.port = .client k → idle (.client k) s → s.held = true → s.tlock = .free →
    (∀ i sh, exec (.entryModeSet i sh) s = .next (sentTwo (.client k) 0x04#8 (bits3 i sh false 0) s)) ∧
    (∀ d c b, exec (.displayOnOffCtl d c b) s = .next (sentTwo (.client k) 0x08#8 (bits3 d c b 0) s)) ∧
    (∀ r sc, exec (.cursorOrDisplayShift r sc) s = .next (sentTwo (.client k) 0x10#8 (bits3 r sc false 2) s)) ∧
    (∀ f n d, exec (.functionSet f n d) s = .next (sentTwo (.client k) 0x20#8 (bits3 f n d 2) s)) ∧
    (∀ a, exec (.setCgramAddress a) s = .next (sentTwo (.client k) 0x40#8 (BitVec.ofNat 8 a.toNat) s)) ∧
    (∀ a, exec (.setDdramAddress a) s = .next (sentTwo (.client k) 0x80#8 (BitVec.ofNat 8 a.toNat) s))

/-- R60: a named Command on a client port is SEND_CMD of it, in every state; and on the lifecycle port no command is a
request (R56). The model's choice, log 14. -/
def Obligations.NamedCommandIsSendCmd : Prop :=
  ∀ (i : Instr) (tag : Tag) (payload : Byte) (s : State), i.raw? = some (tag, payload) →
    (∀ k, s.port = .client k → exec i s = exec (.sendCmd tag payload) s) ∧
    (s.port = .lifecycle → exec i s = .refused .notARequest)

/-! ## The requests -/

/-- R94: SEND_CMD of a raw Command with the session open, TLOCK free: the opcode byte goes to DISPLAY, then for tags 2 to
7 the masked payload; the first BusError ends it. With TLOCK held it waits at T1. The model's choices in it: running a
request until it waits (log 8), the free handle where DEV is absent (log 12). -/
def Obligations.SendCmdResult : Prop :=
  ∀ (k : Nat) (tag : Tag) (payload : Byte) (s : State),
    s.port = .client k → idle (.client k) s → s.held = true →
    (s.tlock = .free → tag.toNat < 2 →
      exec (.sendCmd tag payload) s = .next (sentOne (.client k) (1#8 <<< tag.toNat) s)) ∧
    (s.tlock = .free → 2 ≤ tag.toNat →
      exec (.sendCmd tag payload) s =
        .next (sentTwo (.client k) (1#8 <<< tag.toNat) (payload &&& maskOf tag) s)) ∧
    (s.tlock = .held →
      exec (.sendCmd tag payload) s = .next (waitingAtT1 (.client k) (.sendCmd tag payload) s))

/-- R82, R93: TRANSACT Read with the session open, TLOCK free: one bus read of any offset of the chosen chip; the response
is the byte read, or BusError with the code unchanged; `value` is ignored. With TLOCK held it waits at T1. The model's
choices in it: logs 8 and 12. -/
def Obligations.TransactReadResult : Prop :=
  ∀ (k : Nat) (sel : Chip) (reg : Byte) (value : WriteValue) (s : State),
    s.port = .client k → idle (.client k) s → s.held = true →
    (s.tlock = .free →
      (∃ b, readAnswer (addressOf sel) reg s = .okRead b ∧
        exec (.transact .read sel reg value) s =
          .next (said (.client k) (.okData b) (didRead (handleOf s) (addressOf sel) reg s))) ∨
      (∃ code, readAnswer (addressOf sel) reg s = .fail code ∧
        exec (.transact .read sel reg value) s =
          .next (said (.client k) (.busError code) (didRead (handleOf s) (addressOf sel) reg s)))) ∧
    (s.tlock = .held →
      exec (.transact .read sel reg value) s =
        .next (waitingAtT1 (.client k) (.transact .read sel reg value) s))

/-- R83, R84, R93: TRANSACT Write with the session open, TLOCK free: one bus write of `value[7:0]` to any offset of the
chosen chip; the response is OK, or BusError with the code unchanged. With TLOCK held it waits at T1. The model's choices
in it: logs 8 and 12. -/
def Obligations.TransactWriteResult : Prop :=
  ∀ (k : Nat) (sel : Chip) (reg : Byte) (value : WriteValue) (s : State),
    s.port = .client k → idle (.client k) s → s.held = true →
    (s.tlock = .free →
      (writeAnswer (addressOf sel) reg (value.extractLsb' 0 8) s = .okWrite ∧
        exec (.transact .write sel reg value) s =
          .next (said (.client k) .ok
            (wrote (handleOf s) (addressOf sel) reg (value.extractLsb' 0 8) s))) ∨
      (∃ code, writeAnswer (addressOf sel) reg (value.extractLsb' 0 8) s = .fail code ∧
        exec (.transact .write sel reg value) s =
          .next (said (.client k) (.busError code)
            (wrote (handleOf s) (addressOf sel) reg (value.extractLsb' 0 8) s)))) ∧
    (s.tlock = .held →
      exec (.transact .write sel reg value) s =
        .next (waitingAtT1 (.client k) (.transact .write sel reg value) s))

/-- R97, R99: ATTACH on a detached LCDSEQ, TLOCK free: the writes of the table through `h`, each failure logged at its own
step before the next write, then DEV becomes `present(h)` and the response is OK; SESS is not written. With TLOCK held it
waits at T1; with DEV present it is refused. Running a request until it waits is the model's choice, log 8. -/
def Obligations.AttachResult : Prop :=
  ∀ (h : Handle) (s : State), s.port = .lifecycle → idle .lifecycle s →
    (s.dev = none → s.tlock = .free →
      exec (.attach h) s = .next { s with
        dev := some h
        addr := 0x62#7
        responder := initOps.foldl responderAfter s.responder
        draws := s.draws + 6
        outputs := s.outputs ++ initOutputs h table 1#3 s.responder s.draws ++ [.response .lifecycle .ok] }) ∧
    (s.dev = none → s.tlock = .held →
      exec (.attach h) s = .next (waitingAtT1 .lifecycle (.attach h) s)) ∧
    (∀ h', s.dev = some h' → exec (.attach h) s = .refused .attachWhileAttached)

/-- R96, R98: whatever the responder answers, ATTACH emits exactly the six writes to BACKLIGHT in the fixed order, and
response and final DEV, SESS, TLOCK and ADDR are the same. -/
def Obligations.AttachWritesSixWhateverFails : Prop :=
  ∀ (h : Handle) (s : State), s.port = .lifecycle → idle .lifecycle s → s.dev = none → s.tlock = .free →
    ∃ t, exec (.attach h) s = .next t ∧
      busTrace t.outputs = busTrace s.outputs ++ initOps ∧
      responses t.outputs = responses s.outputs ++ [(.lifecycle, .ok)] ∧
      t.dev = some h ∧ t.held = s.held ∧ t.tlock = .free ∧ t.addr = 0x62#7 ∧ t.flights = s.flights

/-- R100: DETACH, `op` 0x1 on the lifecycle port, with no ATTACH, TRANSACT or SEND_CMD in flight clears DEV and the session
in one micro-step, whatever they were, emits no bus operation, touches no other request and answers OK; ADDR is unspecified
afterwards (nothing is said of it here; the model's counter of free values moves, log 2). -/
def Obligations.DetachResult : Prop :=
  ∀ s : State,
    decodeRequest .lifecycle { op := 0x1#4 } = .ok .detach ∧
    (s.port = .lifecycle → idle .lifecycle s → transferInFlight s.flights = false →
      ∃ t, exec .detach s = .next t ∧
        t = { s with
          dev := none, held := false, addr := t.addr, draws := t.draws
          outputs := s.outputs ++ [.response .lifecycle .ok] }) ∧
    (flightOn .lifecycle s.flights = some ⟨.detach, .start⟩ → transferInFlight s.flights = false →
      ∃ t, microStep .lifecycle s = .next t ∧
        t = { s with
          dev := none, held := false, addr := t.addr, draws := t.draws
          flights := clearFlight .lifecycle s.flights
          outputs := s.outputs ++ [.response .lifecycle .ok] })

/-- R88, R89: OPEN_SESSION run alone: DeviceBusy when the session is held, whether or not a device is attached;
DeviceNotReady, with nothing changed, when it is closed and no device is attached; otherwise OK, and the session is
open. -/
def Obligations.OpenSessionResult : Prop :=
  ∀ (k : Nat) (s : State), s.port = .client k → idle (.client k) s →
    (s.held = true → exec .openSession s = .next (said (.client k) .deviceBusy s)) ∧
    (s.held = false → s.dev = none → exec .openSession s = .next (said (.client k) .deviceNotReady s)) ∧
    (∀ h, s.held = false → s.dev = some h →
      exec .openSession s = .next (said (.client k) .ok { s with held := true }))

/-- R92: CLOSE_SESSION, `op` 0x3 on a client port, closes an open session in one micro-step, answers OK and touches
nothing else, the other requests in flight among it, whichever client issues it; on a closed session it is refused. -/
def Obligations.CloseSessionResult : Prop :=
  ∀ (k : Nat) (s : State),
    decodeRequest (.client k) { op := 0x3#4 } = .ok .closeSession ∧
    (s.port = .client k → idle (.client k) s → s.held = true →
      exec .closeSession s = .next (said (.client k) .ok { s with held := false })) ∧
    (s.port = .client k → idle (.client k) s → s.held = false →
      exec .closeSession s = .refused .closeWhileClosed) ∧
    (flightOn (.client k) s.flights = some ⟨.closeSession, .start⟩ → s.held = true →
      microStep (.client k) s =
        .next (said (.client k) .ok { s with held := false, flights := clearFlight (.client k) s.flights }))

/-- R93, R94, R112: TRANSACT and SEND_CMD on a closed session are refused. -/
def Obligations.TransfersOnClosedSessionAreRefused : Prop :=
  ∀ (k : Nat) (s : State), s.port = .client k → idle (.client k) s → s.held = false →
    (∀ kind sel reg value, exec (.transact kind sel reg value) s = .refused .transferWhileClosed) ∧
    (∀ tag payload, exec (.sendCmd tag payload) s = .refused .transferWhileClosed)

/-- R56, R112: a request on a port that has one in flight, a DETACH under an ATTACH, TRANSACT or SEND_CMD in flight, and an
operation on the wrong kind of port are refused, whether the request is run or only presented; and a record whose `op` is
0x6 to 0xF is refused on every port, as is one whose operation belongs on the other kind of port, and any request on a
client port that the machine does not have (R55). That such a breach is
refused as it is presented is the model's choice, log 9; the events that run and present are log 8. -/
def Obligations.BreachesOnPortsAreRefused : Prop :=
  ∀ (r : Request) (s : State),
    (r.acceptedOn s.port = false ∨ s.port.existsIn s.nclient = false → exec r.toInstr s = .refused .notARequest) ∧
    (r.acceptedOn s.port = true → s.port.existsIn s.nclient = true → flightOn s.port s.flights ≠ none →
      exec r.toInstr s = .refused .portBusy) ∧
    (s.port = .lifecycle → idle .lifecycle s → transferInFlight s.flights = true →
      exec .detach s = .refused .detachUnderTransfer) ∧
    (∀ (p : Port) (rec : RequestRecord) (es : List Event),
      (6 ≤ rec.op.toNat ∨ (rec.op.toNat < 2 ∧ p ≠ .lifecycle) ∨
          (2 ≤ rec.op.toNat ∧ rec.op.toNat < 6 ∧ ∀ k, p ≠ .client k) ∨ (∃ k, p = .client k ∧ s.nclient ≤ k) →
        step { s with events := .run p rec :: es } = .refused .notARequest ∧
        step { s with events := .issue p rec :: es } = .refused .notARequest) ∧
      (decodeRequest p rec = .ok r → p.existsIn s.nclient = true → flightOn p s.flights ≠ none →
        step { s with events := .run p rec :: es } = .refused .portBusy ∧
        step { s with events := .issue p rec :: es } = .refused .portBusy) ∧
      (decodeRequest p rec = .ok .detach → idle p s → transferInFlight s.flights = true →
        step { s with events := .run p rec :: es } = .refused .detachUnderTransfer ∧
        step { s with events := .issue p rec :: es } = .refused .detachUnderTransfer))

/-! ## Micro-steps -/

/-- R80: the four micro-steps of the transaction of any request, each as a whole next state. T1 takes a free lock and does
nothing while the lock is held; T2 writes ADDR; T3 emits the one bus operation, to the address in ADDR; T4 frees the lock
whatever the response and hands it back: a TRANSACT ends with it, a SEND_CMD ends with its BusError, goes on to the parameter
write or ends with OK, an ATTACH logs a failure and goes on to its next write or to A7. `held` is neither read nor written, so
a session closed in between changes nothing (R92). That the response is handed back in the micro-step of T4 is the model's
choice, log 11. -/
def Obligations.TransactionMicroSteps : Prop :=
  ∀ (p : Port) (r : Request) (n : Nat) (t : Transfer) (s : State), (transfersOf r)[n]? = some t →
    (flightOn p s.flights = some ⟨r, .xact n .acquire⟩ → s.tlock = .held → microStep p s = .next s) ∧
    (flightOn p s.flights = some ⟨r, .xact n .acquire⟩ → s.tlock = .free →
      microStep p s =
        .next { s with tlock := .held, flights := setFlight p ⟨r, .xact n .retarget⟩ s.flights }) ∧
    (flightOn p s.flights = some ⟨r, .xact n .retarget⟩ →
      microStep p s =
        .next { s with addr := addressOf t.sel, flights := setFlight p ⟨r, .xact n .transfer⟩ s.flights }) ∧
    (flightOn p s.flights = some ⟨r, .xact n .transfer⟩ →
      ∃ h, microStep p s = .next { s with
        responder := responderAfter s.responder (busOpOf s.addr t)
        draws := s.draws + 1
        outputs := s.outputs ++ [.bus h (busOpOf s.addr t) (answerTo s.responder s.draws (busOpOf s.addr t))]
        flights := setFlight p
          ⟨r, .xact n (.release (answerTo s.responder s.draws (busOpOf s.addr t)))⟩ s.flights } ∧
        (∀ h', s.dev = some h' → (∀ h'', r ≠ .attach h'') → h = h') ∧ (∀ h', r = .attach h' → h = h')) ∧
    (∀ resp, flightOn p s.flights = some ⟨r, .xact n (.release resp)⟩ →
      (∀ kind sel reg value, r = .transact kind sel reg value →
        microStep p s =
          .next (said p (answered resp) { s with tlock := .free, flights := clearFlight p s.flights })) ∧
      (∀ tag payload, r = .sendCmd tag payload →
        (∀ code, resp = .fail code →
          microStep p s =
            .next (said p (.busError code) { s with tlock := .free, flights := clearFlight p s.flights })) ∧
        ((∀ code, resp ≠ .fail code) → n = 0 → 2 ≤ tag.toNat →
          microStep p s =
            .next { s with tlock := .free, flights := setFlight p ⟨r, .xact 1 .acquire⟩ s.flights }) ∧
        ((∀ code, resp ≠ .fail code) → (n = 1 ∨ tag.toNat < 2) →
          microStep p s =
            .next (said p .ok { s with tlock := .free, flights := clearFlight p s.flights }))) ∧
      (∀ h, r = .attach h →
        microStep p s = .next { s with
          tlock := .free
          outputs := s.outputs ++ logged (BitVec.ofNat 3 (n + 1)) t.reg resp
          flights := setFlight p ⟨r, if n < 5 then .xact (n + 1) .acquire else .expose⟩ s.flights }))

/-- R88: OPEN_SESSION, `op` 0x2 on a client port. S1 is a test-and-set of `held`; S2 releases the hold when DEV is absent
and otherwise leaves `held` as it is. Neither waits, and neither emits a bus operation. -/
def Obligations.OpenSessionMicroSteps : Prop :=
  ∀ (p : Port) (s : State),
    (∀ k, decodeRequest (.client k) { op := 0x2#4 } = .ok .openSession) ∧
    (flightOn p s.flights = some ⟨.openSession, .start⟩ → s.held = true →
      microStep p s = .next (said p .deviceBusy { s with flights := clearFlight p s.flights })) ∧
    (flightOn p s.flights = some ⟨.openSession, .start⟩ → s.held = false →
      microStep p s =
        .next { s with held := true, flights := setFlight p ⟨.openSession, .openS2⟩ s.flights }) ∧
    (flightOn p s.flights = some ⟨.openSession, .openS2⟩ → s.dev = none →
      microStep p s =
        .next (said p .deviceNotReady { s with held := false, flights := clearFlight p s.flights })) ∧
    (∀ h, flightOn p s.flights = some ⟨.openSession, .openS2⟩ → s.dev = some h →
      microStep p s = .next (said p .ok { s with flights := clearFlight p s.flights }))

/-- R90: while one OPEN_SESSION is between S1 and S2 on a detached device, another client's OPEN_SESSION answers
DeviceBusy; the first then answers DeviceNotReady, and the session is closed. -/
def Obligations.TransientHoldAnswersBusy : Prop :=
  ∀ (k j : Nat) (es : List Event) (s : State), k ≠ j → idle (.client k) s → idle (.client j) s →
    s.dev = none → s.held = false →
    runFrom 5 (.issue (.client k) { op := 0x2#4 } :: .grant (.client k) :: .issue (.client j) { op := 0x2#4 } ::
        .grant (.client j) :: .grant (.client k) :: es) s =
      .next { s with
        events := es, port := .client k
        outputs := s.outputs ++
          [.response (.client j) .deviceBusy, .response (.client k) .deviceNotReady] }

/-- R91: of two concurrent OPEN_SESSION requests on an attached, closed LCDSEQ, under every order of their micro-steps,
never both succeed, and when both have answered one answer is OK and the other DeviceBusy; after two micro-steps each, both
have answered. That a list of events stands for an order of the agents is the model's choice, log 8. -/
def Obligations.ConcurrentOpensGiveOneSession : Prop :=
  ∀ (k j : Nat) (h : Handle) (s : State) (order : List Port), k ≠ j → idle (.client k) s → idle (.client j) s →
    s.dev = some h → s.held = false → (∀ p ∈ order, p = .client k ∨ p = .client j) →
    ∃ (t : State) (answers : List (Port × Response)),
      runFrom (order.length + 2) (.issue (.client k) { op := 0x2#4 } :: .issue (.client j) { op := 0x2#4 } ::
        order.map .grant) s = .next t ∧
      responses t.outputs = responses s.outputs ++ answers ∧
      (answers.map Prod.snd).countP (· = .ok) ≤ 1 ∧
      (answers.length = 2 →
        (answers.map Prod.snd).countP (· = .ok) = 1 ∧ (answers.map Prod.snd).countP (· = .deviceBusy) = 1 ∧
          t.held = true) ∧
      (2 ≤ order.count (.client k) → 2 ≤ order.count (.client j) → answers.length = 2)

/-- R124: any TRANSACT of another client may fall between the opcode write and the parameter write of any two-byte
SEND_CMD whose opcode write does not fail: the bus sees the opcode, the other's operation, the parameter, and each request
gets the answer of its own operations. The list of events that gives this order is the model's, log 8. -/
def Obligations.SendCmdCanBeInterleaved : Prop :=
  ∀ (k j : Nat) (tag : Tag) (payload : Byte) (kind : Kind) (sel : Chip) (reg : Byte) (value : WriteValue)
    (x : Byte) (a a' : Answer) (s : State),
    2 ≤ tag.toNat → k ≠ j → idle (.client k) s → idle (.client j) s → s.held = true → s.tlock = .free →
    s.responder = .blackBox [.ok x, a, a'] →
    ∃ (t : State) (op : BusOp),
      (kind = .read → op = .read (addressOf sel) reg) ∧
      (kind = .write → op = .write (addressOf sel) reg (value.extractLsb' 0 8)) ∧
      runFrom 11 (.issue (.client k) { op := 0x5#4, tag := tag, payload := payload } ::
        List.replicate 5 (.grant (.client k)) ++
        [.run (.client j) { op := 0x4#4, kind := kind.bit, sel := sel.bit, reg := reg, value := value }] ++
        List.replicate 4 (.grant (.client k))) s = .next t ∧
      busTrace t.outputs = busTrace s.outputs ++
        [.write 0x3E#7 0x80#8 (1#8 <<< tag.toNat), op, .write 0x3E#7 0x80#8 (payload &&& maskOf tag)] ∧
      responses t.outputs = responses s.outputs ++
        [(.client j, match a with
            | .ok b => if kind = .read then .okData b else .ok
            | .fail code => .busError code),
          (.client k, match a' with
            | .ok _ => .ok
            | .fail code => .busError code)] ∧
      idle (.client k) t ∧ idle (.client j) t

/-- D18 and R80: running a request whole is presenting it and granting its micro-steps with no other agent moving, in
every state, whether it ends, waits or is refused. The events that present, run and grant are the model's, log 8. -/
def Obligations.WholeRunIsItsMicroSteps : Prop :=
  ∀ (p : Port) (r : RequestRecord) (es : List Event) (s : State),
    runFrom (microBudget + 1) (.issue p r :: (List.replicate microBudget (.grant p) ++ es)) s =
      step { s with events := .run p r :: es }

/-! ## Invariants -/

/-- R20, R21, R24 I2: TLOCK is held exactly while one request is between acquire and release, and at the transfer ADDR is
the address of the request's own chip. Where the micro-steps begin and end is the model's reading, logs 10 and 11. -/
def Obligations.TransportInvariantIsKept : Prop :=
  ∀ s s' : State, TransportInv s → step s = .next s' → TransportInv s'

/-- R24 I1 and the first half of I3: a session held by no half-done OPEN_SESSION is held on an attached device, and DEV is
absent while an ATTACH is running. -/
def Obligations.SessionInvariantIsKept : Prop :=
  ∀ s s' : State, SessionInv s → step s = .next s' → SessionInv s'

/-- R26: no bus operation ever goes to an address other than 0x3E and 0x62. -/
def Obligations.BusAddressesStayLegal : Prop :=
  ∀ s s' : State, TransportInv s → TraceInv s → step s = .next s' → TraceInv s'

/-- The safe states are closed under every step: the invariants above, the log's steps (R99) and the ideal responder's
canonical form. -/
def Obligations.SafeIsKept : Prop :=
  ∀ s s' : State, Safe s → step s = .next s' → Safe s'

/-- The state after reset is safe. -/
def Obligations.ResetIsSafe : Prop :=
  Safe State.reset

/-- R120: DEV absent, session closed, TLOCK free, nothing in flight, nothing logged. -/
def Obligations.ResetValues : Prop :=
  State.reset.dev = none ∧ State.reset.held = false ∧ State.reset.tlock = .free ∧ State.reset.flights = [] ∧
    State.reset.outputs = []

/-- R20, R123: when no request is in flight TLOCK is free, and an open session stands on an attached device. -/
def Obligations.QuietMeansLockFree : Prop :=
  ∀ s : State, Safe s → quiet s → s.tlock = .free ∧ (s.held = true → ∃ h, s.dev = some h)

/-- I3 of R24: while an ATTACH is running and no OPEN_SESSION is between its micro-steps, DEV is absent and no session is
open. -/
def Obligations.NoSessionWhileAttaching : Prop :=
  ∀ s : State, SessionInv s → (∃ e ∈ s.flights, attaching e.2 = true) → (∀ e ∈ s.flights, e.2.micro ≠ .openS2) →
    s.dev = none ∧ s.held = false

/-- R81 (c), R113: the lock is never held for good. In a safe state with TLOCK held some request holds it, and at most
three of its own micro-steps free it, whatever the bus answers. The count of three rests on log 11. -/
def Obligations.HeldLockIsFreedWithinThreeSteps : Prop :=
  ∀ s : State, TransportInv s → s.tlock = .held →
    ∃ (p : Port) (k : Nat) (t : State), k ≤ 3 ∧ drive k p s = .next t ∧ t.tlock = .free

/-- R22 (a): in a state whose requests in flight are at micro-steps of their own, no step meets a micro-step without
meaning. The refusal's name is the model's, log 20. -/
def Obligations.WellFormedFlightsAlwaysHaveAMicroStep : Prop :=
  ∀ s : State, FlightsWf s → step s ≠ .refused .noSuchMicroStep

/-- R10, R38: nothing put out is ever taken back: every step only adds outputs. -/
def Obligations.OutputsOnlyGrow : Prop :=
  ∀ s s' : State, step s = .next s' → ∃ new, s'.outputs = s.outputs ++ new

/-! ## Whole-machine rules -/

/-- R17, R18: whatever the port and the state, only ATTACH and DETACH change DEV, and only OPEN_SESSION, CLOSE_SESSION and
DETACH change `held`. -/
def Obligations.DevAndSessionWriters : Prop :=
  ∀ (i : Instr) (s t : State), exec i s = .next t →
    ((∀ h, i ≠ .attach h) → i ≠ .detach → t.dev = s.dev) ∧
    (i ≠ .openSession → i ≠ .closeSession → i ≠ .detach → t.held = s.held)

/-- R17, R18, at the grain of micro-steps: a micro-step that changes DEV or `held` is one of the operations that write
it. -/
def Obligations.DevAndSessionWritersByMicroStep : Prop :=
  ∀ (p : Port) (s t : State), microStep p s = .next t →
    (t.dev ≠ s.dev → ∃ f, flightOn p s.flights = some f ∧ ((∃ h, f.req = .attach h) ∨ f.req = .detach)) ∧
    (t.held ≠ s.held → ∃ f, flightOn p s.flights = some f ∧
      (f.req = .openSession ∨ f.req = .closeSession ∨ f.req = .detach))

/-- R21: no request reads the ADDR an earlier one left: with another value of ADDR every instruction answers the same but
for ADDR itself. -/
def Obligations.NoInstructionReadsAddr : Prop :=
  ∀ (i : Instr) (s : State) (a : BusAddr), sameButAddr (exec i s) (exec i { s with addr := a })

/-- R19, R125: LCDSEQ does not know the holder: a client that never opened is served exactly as another, but for the port of
its response. -/
def Obligations.TransactIgnoresWhoAsks : Prop :=
  ∀ (k j : Nat) (kind : Kind) (sel : Chip) (reg : Byte) (value : WriteValue) (s : State),
    idle (.client k) s → idle (.client j) s → s.held = true → s.tlock = .free →
    ∃ (t : State) (r : Response),
      exec (.transact kind sel reg value) { s with port := .client k } =
        .next (said (.client k) r { t with port := .client k }) ∧
      exec (.transact kind sel reg value) { s with port := .client j } =
        .next (said (.client j) r { t with port := .client j })

/-- A step with an event that decodes to an instruction is `exec` of that instruction, with the event taken off the list and
its port the port served; with no event left nothing happens. The list of events is the model's, logs 8 and 17. -/
def Obligations.StepRunsTheDecodedInstruction : Prop :=
  (∀ s : State, s.events = [] → step s = .next s) ∧
  (∀ (ev : Event) (rest : List Event) (p : Port) (i : Instr) (s : State),
    s.events = ev :: rest → fetch ev = .instr p i →
    step s = exec i { s with events := rest, port := p }) ∧
  (∀ (p : Port) (r : RequestRecord) (q : Request), decodeRequest p r = .ok q →
    fetch (.run p r) = .instr p q.toInstr) ∧
  (∀ (k : Nat) (opcode : Byte) (param : Option Byte) (i : Instr), decodeCommand opcode param = .ok i →
    fetch (.cmd k opcode param) = .instr (.client k) i ∧ fetch (.dec opcode param) = .instr .dec i)

/-! ## Scenarios of the spec, over all states -/

/-- R85: after a read that failed the lock is free, and an unrelated write by any client succeeds at once. -/
def Obligations.FailedReadReleasesTheLock : Prop :=
  ∀ (k j : Nat) (h : Handle) (code : BusCode) (x : Byte) (sel sel' : Chip) (reg reg' : Byte) (value value' : WriteValue)
    (s : State), idle (.client k) s → idle (.client j) s → s.held = true → s.tlock = .free → s.dev = some h →
    s.responder = .blackBox [.fail code, .ok x] →
    ∃ t u, exec (.transact .read sel reg value) { s with port := .client k } = .next t ∧
      t.tlock = .free ∧ t.held = true ∧ t.addr = addressOf sel ∧
      t.outputs = s.outputs ++
        [.bus h (.read (addressOf sel) reg) (.fail code), .response (.client k) (.busError code)] ∧
      exec (.transact .write sel' reg' value') { t with port := .client j } = .next u ∧
      u.outputs = t.outputs ++
        [.bus h (.write (addressOf sel') reg' (value'.extractLsb' 0 8)) .okWrite, .response (.client j) .ok]

/-- R88, R90, 95_test_vectors.md E5: OPEN_SESSION before ATTACH answers DeviceNotReady and does not leave the session held:
an ATTACH and an OPEN_SESSION after it succeed. -/
def Obligations.OpenBeforeAttachLeavesNothingHeld : Prop :=
  ∀ (k j : Nat) (h : Handle) (s : State), idle (.client k) s → idle (.client j) s → idle .lifecycle s →
    s.dev = none → s.held = false → s.tlock = .free →
    ∃ t, runFrom 3 [.run (.client k) { op := 0x2#4 }, .run .lifecycle { op := 0x0#4, handle := h },
        .run (.client j) { op := 0x2#4 }] s = .next t ∧
      responses t.outputs = responses s.outputs ++
        [(.client k, .deviceNotReady), (.lifecycle, .ok), (.client j, .ok)] ∧
      t.dev = some h ∧ t.held = true

/-- R126: DETACH closes an open session without telling its holder: DETACH's own response is all that is put out, and the
holder's next TRANSACT is refused. -/
def Obligations.DetachClosesSilently : Prop :=
  ∀ (k : Nat) (kind : Kind) (sel : Chip) (reg : Byte) (value : WriteValue) (s : State),
    s.port = .lifecycle → idle .lifecycle s → idle (.client k) s → transferInFlight s.flights = false →
    ∃ t, exec .detach s = .next t ∧ t.outputs = s.outputs ++ [.response .lifecycle .ok] ∧
      exec (.transact kind sel reg value) { t with port := .client k } = .refused .transferWhileClosed

/-- R33: with the ideal responder a byte written to a register is what a later read of it by any client answers, and the
other registers keep theirs. -/
def Obligations.IdealResponderReadsBack : Prop :=
  ∀ (k j : Nat) (sel : Chip) (reg : Byte) (value value' : WriteValue) (cells : Memory) (s : State),
    idle (.client k) s → idle (.client j) s → s.held = true → s.tlock = .free → s.responder = .ideal cells →
    ∃ t u cells', exec (.transact .write sel reg value) { s with port := .client k } = .next t ∧
      t.responder = .ideal cells' ∧
      (∀ sel' reg', (sel', reg') ≠ (sel, reg) →
        Memory.read (key (addressOf sel') reg') cells' = Memory.read (key (addressOf sel') reg') cells) ∧
      exec (.transact .read sel reg value') { t with port := .client j } = .next u ∧
      responses u.outputs = responses s.outputs ++
        [(.client k, .ok), (.client j, .okData (value.extractLsb' 0 8))]

/-! ## The bus port and the log port -/

/-- R59, R31: `bus_kind` is 0 for a read and 1 for a write, the other signals are the operation's own, `bus_wdata` of a read
being any byte; the signals stand for exactly the operation they were emitted with. `bus_ok` 1 stands for `ok` with
`bus_rdata`, 0 for `fail` with `bus_code`, whatever the signal without meaning is; an `ok` answers a read with the byte and a
write without one. -/
def Obligations.BusPortSignals : Prop :=
  ∀ (a7 : BusAddr) (reg wdata any : Byte) (code : BusCode),
    (BusOp.read a7 reg).signals any = { a7 := a7, reg := reg, kind := 0#1, wdata := any } ∧
    (BusOp.write a7 reg wdata).signals any = { a7 := a7, reg := reg, kind := 1#1, wdata := wdata } ∧
    (∀ op : BusOp, (op.signals any).op = op) ∧
    (∀ sig : BusOut, sig.op.signals sig.wdata = sig) ∧
    BusIn.answer { ok := 1#1, code := code, rdata := any } = .ok any ∧
    BusIn.answer { ok := 0#1, code := code, rdata := any } = .fail code ∧
    respOf (.read a7 reg) (.ok any) = .okRead any ∧
    respOf (.write a7 reg wdata) (.ok any) = .okWrite ∧
    (∀ op, respOf op (.fail code) = .fail code)

/-- R59, R99: every step keeps it that a log event has a `log_step` of 1 to 6 and names the register of that initialisation
step. -/
def Obligations.LogEventsNameTheirStep : Prop :=
  ∀ s s' : State, LogInv s → step s = .next s' → LogInv s'

/-! ## The micro-steps around the transactions -/

/-- R93, R94, R97: the first micro-step of TRANSACT, SEND_CMD and ATTACH evaluates the `require` once, before T1, and
changes nothing but the request's own progress; a false `require` is refused. A7 of ATTACH sets DEV, answers OK and does not
write SESS. That the `require` has a micro-step of its own is the model's choice, log 10. -/
def Obligations.StartAndExposeMicroSteps : Prop :=
  ∀ (p : Port) (r : Request) (h : Handle) (s : State),
    (flightOn p s.flights = some ⟨r, .start⟩ →
      ((∃ kind sel reg value, r = .transact kind sel reg value) ∨ (∃ tag payload, r = .sendCmd tag payload)) →
      (s.held = true →
        microStep p s = .next { s with flights := setFlight p ⟨r, .xact 0 .acquire⟩ s.flights }) ∧
      (s.held = false → microStep p s = .refused .transferWhileClosed)) ∧
    (flightOn p s.flights = some ⟨.attach h, .start⟩ →
      (s.dev = none →
        microStep p s = .next { s with flights := setFlight p ⟨.attach h, .xact 0 .acquire⟩ s.flights }) ∧
      (∀ h', s.dev = some h' → microStep p s = .refused .attachWhileAttached)) ∧
    (flightOn p s.flights = some ⟨.attach h, .expose⟩ →
      microStep p s = .next (said p .ok { s with dev := some h, flights := clearFlight p s.flights }))

/-- R92, R93: CLOSE_SESSION does not affect a transaction in flight. From T1 on a request does the same whatever `held` is,
and leaves `held` as it finds it. -/
def Obligations.TransactionsIgnoreTheSession : Prop :=
  ∀ (p : Port) (r : Request) (n : Nat) (ph : Phase) (b : Bool) (s : State),
    flightOn p s.flights = some ⟨r, .xact n ph⟩ →
    (∀ t, microStep p s = .next t → microStep p { s with held := b } = .next { t with held := b } ∧ t.held = s.held) ∧
    (∀ why, microStep p s = .refused why → microStep p { s with held := b } = .refused why)

/-! ## Streams and parameters -/

/-- R47, R64: a stream made of the bytes of commands, one after the other, decodes to these commands in order, whatever
their number. -/
def Obligations.StreamOfCommandsDecodes : Prop :=
  ∀ is : List Instr, (∀ i ∈ is, i.raw? ≠ none) →
    decodeStream (is.flatMap fun i => (encode i).bytes) = is.map .ok

/-- R7: NCLIENT is a parameter: no step changes it; after reset it is at least 1, and any value it may have is open
(log 5). -/
def Obligations.NclientIsAParameter : Prop :=
  (∀ s s' : State, step s = .next s' → s'.nclient = s.nclient) ∧ 1 ≤ State.reset.nclient
end

