-- ==== Sys2Proof/Laws/Codec.lean ====
section
/-! SUPPORT. The laws of the codec's small functions: one-bit opcodes and tags, masks, and DECODE by tag. -/

namespace Sys2Proof

/-- An opcode of one set bit is the opcode of its tag. -/
theorem opcode_of_one_bit : ∀ opcode : Byte, popcount opcode = 1 →
    ∃ tag : Tag, opcode = opcodeOf tag ∧ tagOf opcode = tag := by
  decide

@[simp] theorem popcount_opcodeOf : ∀ tag : Tag, popcount (opcodeOf tag) = 1 := by decide

@[simp] theorem tagOf_opcodeOf : ∀ tag : Tag, tagOf (opcodeOf tag) = tag := by decide

/-- A payload with no reserved bit is unchanged by the mask. -/
theorem and_maskOf_of_no_reserved : ∀ (tag : Tag) (b : Byte), b &&& ~~~maskOf tag = 0#8 → b &&& maskOf tag = b := by
  decide

/-- A masked payload has no reserved bit. -/
theorem masked_has_no_reserved : ∀ (tag : Tag) (b : Byte), (b &&& maskOf tag) &&& ~~~maskOf tag = 0#8 := by
  decide

theorem maskOf_of_no_param : ∀ tag : Tag, hasParam tag = false → maskOf tag = 0#8 := by decide

theorem opcodeOf_of_no_param : ∀ tag : Tag, hasParam tag = false → opcodeOf tag = 0x01#8 ∨ opcodeOf tag = 0x02#8 := by
  decide

theorem opcodeOf_of_param : ∀ tag : Tag, hasParam tag = true → opcodeOf tag ≠ 0x01#8 ∧ opcodeOf tag ≠ 0x02#8 := by
  decide

/-- DECODE of an opcode without exactly one set bit (R64, R65). -/
theorem decodeRaw_of_unknown {opcode : Byte} (h : popcount opcode ≠ 1) (param : Option Byte) :
    decodeRaw opcode param = .error .unknownOpcode := by
  simp [decodeRaw, h]

/-- DECODE of `CMD0` opcodes (R64, R67). -/
theorem decodeRaw_cmd0 {tag : Tag} (h : hasParam tag = false) (param : Option Byte) :
    decodeRaw (opcodeOf tag) param =
      if param.getD 0#8 = 0#8 then .ok (tag, 0#8) else .error .reservedBitSet := by
  cases param <;> simp [decodeRaw, h]

/-- DECODE of a `CMD1` opcode with its parameter (R64). -/
theorem decodeRaw_cmd1 {tag : Tag} (h : hasParam tag = true) (b : Byte) :
    decodeRaw (opcodeOf tag) (some b) =
      if b &&& ~~~maskOf tag = 0#8 then .ok (tag, b) else .error .reservedBitSet := by
  simp [decodeRaw, h]

/-- DECODE of a `CMD1` opcode without one (R68). -/
theorem decodeRaw_cmd1_none {tag : Tag} (h : hasParam tag = true) :
    decodeRaw (opcodeOf tag) none = .error .missingParameter := by
  simp [decodeRaw, h]

/-- The command of a raw Command has that tag, and ENCODE gives the same for both (R63). -/
theorem commandOf_raw : ∀ (tag : Tag) (payload : Byte),
    ((commandOf tag payload).raw?.map fun c => (c.1, c.2)) = some (tag, payload &&& maskOf tag) := by
  decide +kernel

theorem raw_commandOf (tag : Tag) (payload : Byte) :
    (commandOf tag payload).raw? = some (tag, payload &&& maskOf tag) := by
  have := commandOf_raw tag payload
  simpa using this

/-! ## The cutting of a stream, R47 -/

/-- The length of a command is its tag's. -/
@[simp] theorem commandLength_opcodeOf : ∀ tag : Tag,
    commandLength (opcodeOf tag) = some (if hasParam tag then 2 else 1) := by
  decide

/-- A one-byte command is cut off whatever follows it. -/
theorem cutCommand_cmd0 {tag : Tag} (h : hasParam tag = false) (rest : List Byte) :
    cutCommand (opcodeOf tag :: rest) = .ok (opcodeOf tag, none, rest) := by
  simp [cutCommand, h]

/-- A two-byte command is cut off whatever its parameter byte is and whatever follows it. -/
theorem cutCommand_cmd1 {tag : Tag} (h : hasParam tag = true) (b : Byte) (rest : List Byte) :
    cutCommand (opcodeOf tag :: b :: rest) = .ok (opcodeOf tag, some b, rest) := by
  simp [cutCommand, h]

/-- The bytes ENCODE gives are cut off a stream as they were put on it (R45, R47). -/
theorem cutCommand_encodeRaw (tag : Tag) (payload : Byte) (rest : List Byte) :
    cutCommand ((encodeRaw tag payload).bytes ++ rest) =
      .ok (opcodeOf tag, (encodeRaw tag payload).param?, rest) := by
  cases h : hasParam tag
  · simpa [EncOut.bytes, EncOut.param?, encodeRaw, h] using cutCommand_cmd0 h rest
  · simpa [EncOut.bytes, EncOut.param?, encodeRaw, h] using cutCommand_cmd1 h _ rest

end Sys2Proof
end

