-- ==== Sys2Proof/Laws/State.lean ====
section
/-! SUPPORT. One lemma per field per update of the state, each true by unfolding, so that no proof unfolds a record
update again. -/

namespace Sys2Proof.Machine

/-! ## advance -/

@[simp] theorem advance_dev (p : Port) (r : Request) (m : Micro) (s : State) : (advance p r m s).dev = s.dev := rfl
@[simp] theorem advance_held (p : Port) (r : Request) (m : Micro) (s : State) : (advance p r m s).held = s.held := rfl
@[simp] theorem advance_tlock (p : Port) (r : Request) (m : Micro) (s : State) :
    (advance p r m s).tlock = s.tlock := rfl
@[simp] theorem advance_addr (p : Port) (r : Request) (m : Micro) (s : State) : (advance p r m s).addr = s.addr := rfl
@[simp] theorem advance_flights (p : Port) (r : Request) (m : Micro) (s : State) :
    (advance p r m s).flights = setFlight p ⟨r, m⟩ s.flights := rfl
@[simp] theorem advance_nclient (p : Port) (r : Request) (m : Micro) (s : State) :
    (advance p r m s).nclient = s.nclient := rfl
@[simp] theorem advance_port (p : Port) (r : Request) (m : Micro) (s : State) : (advance p r m s).port = s.port := rfl
@[simp] theorem advance_events (p : Port) (r : Request) (m : Micro) (s : State) :
    (advance p r m s).events = s.events := rfl
@[simp] theorem advance_responder (p : Port) (r : Request) (m : Micro) (s : State) :
    (advance p r m s).responder = s.responder := rfl
@[simp] theorem advance_draws (p : Port) (r : Request) (m : Micro) (s : State) :
    (advance p r m s).draws = s.draws := rfl
@[simp] theorem advance_outputs (p : Port) (r : Request) (m : Micro) (s : State) :
    (advance p r m s).outputs = s.outputs := rfl

/-! ## emitBus -/

@[simp] theorem emitBus_dev (h : Handle) (op : BusOp) (s : State) : (emitBus h op s).dev = s.dev := rfl
@[simp] theorem emitBus_held (h : Handle) (op : BusOp) (s : State) : (emitBus h op s).held = s.held := rfl
@[simp] theorem emitBus_tlock (h : Handle) (op : BusOp) (s : State) : (emitBus h op s).tlock = s.tlock := rfl
@[simp] theorem emitBus_addr (h : Handle) (op : BusOp) (s : State) : (emitBus h op s).addr = s.addr := rfl
@[simp] theorem emitBus_flights (h : Handle) (op : BusOp) (s : State) : (emitBus h op s).flights = s.flights := rfl
@[simp] theorem emitBus_nclient (h : Handle) (op : BusOp) (s : State) : (emitBus h op s).nclient = s.nclient := rfl
@[simp] theorem emitBus_port (h : Handle) (op : BusOp) (s : State) : (emitBus h op s).port = s.port := rfl
@[simp] theorem emitBus_events (h : Handle) (op : BusOp) (s : State) : (emitBus h op s).events = s.events := rfl
@[simp] theorem emitBus_responder (h : Handle) (op : BusOp) (s : State) :
    (emitBus h op s).responder = responderAfter s.responder op := rfl
@[simp] theorem emitBus_draws (h : Handle) (op : BusOp) (s : State) : (emitBus h op s).draws = s.draws + 1 := rfl
@[simp] theorem emitBus_outputs (h : Handle) (op : BusOp) (s : State) :
    (emitBus h op s).outputs = s.outputs ++ [.bus h op (busResponse op s)] := rfl

/-! ## respond -/

@[simp] theorem respond_dev (p : Port) (r : Response) (s : State) : (respond p r s).dev = s.dev := rfl
@[simp] theorem respond_held (p : Port) (r : Response) (s : State) : (respond p r s).held = s.held := rfl
@[simp] theorem respond_tlock (p : Port) (r : Response) (s : State) : (respond p r s).tlock = s.tlock := rfl
@[simp] theorem respond_addr (p : Port) (r : Response) (s : State) : (respond p r s).addr = s.addr := rfl
@[simp] theorem respond_flights (p : Port) (r : Response) (s : State) :
    (respond p r s).flights = clearFlight p s.flights := rfl
@[simp] theorem respond_nclient (p : Port) (r : Response) (s : State) : (respond p r s).nclient = s.nclient := rfl
@[simp] theorem respond_port (p : Port) (r : Response) (s : State) : (respond p r s).port = s.port := rfl
@[simp] theorem respond_events (p : Port) (r : Response) (s : State) : (respond p r s).events = s.events := rfl
@[simp] theorem respond_responder (p : Port) (r : Response) (s : State) :
    (respond p r s).responder = s.responder := rfl
@[simp] theorem respond_draws (p : Port) (r : Response) (s : State) : (respond p r s).draws = s.draws := rfl
@[simp] theorem respond_outputs (p : Port) (r : Response) (s : State) :
    (respond p r s).outputs = s.outputs ++ [.response p r] := rfl

/-! ## raiseError -/

@[simp] theorem raiseError_dev (p : Port) (r : Response) (s : State) : (raiseError p r s).dev = s.dev := rfl
@[simp] theorem raiseError_held (p : Port) (r : Response) (s : State) : (raiseError p r s).held = s.held := rfl
@[simp] theorem raiseError_tlock (p : Port) (r : Response) (s : State) : (raiseError p r s).tlock = s.tlock := rfl
@[simp] theorem raiseError_addr (p : Port) (r : Response) (s : State) : (raiseError p r s).addr = s.addr := rfl
@[simp] theorem raiseError_flights (p : Port) (r : Response) (s : State) :
    (raiseError p r s).flights = clearFlight p s.flights := rfl
@[simp] theorem raiseError_nclient (p : Port) (r : Response) (s : State) :
    (raiseError p r s).nclient = s.nclient := rfl
@[simp] theorem raiseError_port (p : Port) (r : Response) (s : State) : (raiseError p r s).port = s.port := rfl
@[simp] theorem raiseError_events (p : Port) (r : Response) (s : State) : (raiseError p r s).events = s.events := rfl
@[simp] theorem raiseError_responder (p : Port) (r : Response) (s : State) :
    (raiseError p r s).responder = s.responder := rfl
@[simp] theorem raiseError_draws (p : Port) (r : Response) (s : State) : (raiseError p r s).draws = s.draws := rfl
@[simp] theorem raiseError_outputs (p : Port) (r : Response) (s : State) :
    (raiseError p r s).outputs = s.outputs ++ [.response p r] := rfl

/-! ## output -/

@[simp] theorem output_dev (o : Output) (s : State) : (output o s).dev = s.dev := rfl
@[simp] theorem output_held (o : Output) (s : State) : (output o s).held = s.held := rfl
@[simp] theorem output_tlock (o : Output) (s : State) : (output o s).tlock = s.tlock := rfl
@[simp] theorem output_addr (o : Output) (s : State) : (output o s).addr = s.addr := rfl
@[simp] theorem output_flights (o : Output) (s : State) : (output o s).flights = s.flights := rfl
@[simp] theorem output_nclient (o : Output) (s : State) : (output o s).nclient = s.nclient := rfl
@[simp] theorem output_port (o : Output) (s : State) : (output o s).port = s.port := rfl
@[simp] theorem output_events (o : Output) (s : State) : (output o s).events = s.events := rfl
@[simp] theorem output_responder (o : Output) (s : State) : (output o s).responder = s.responder := rfl
@[simp] theorem output_draws (o : Output) (s : State) : (output o s).draws = s.draws := rfl
@[simp] theorem output_outputs (o : Output) (s : State) : (output o s).outputs = s.outputs ++ [o] := rfl

/-! ## releaseStep -/

@[simp] theorem releaseStep_dev (s : State) : (releaseStep s).dev = s.dev := rfl
@[simp] theorem releaseStep_held (s : State) : (releaseStep s).held = s.held := rfl
@[simp] theorem releaseStep_tlock (s : State) : (releaseStep s).tlock = .free := rfl
@[simp] theorem releaseStep_addr (s : State) : (releaseStep s).addr = s.addr := rfl
@[simp] theorem releaseStep_flights (s : State) : (releaseStep s).flights = s.flights := rfl
@[simp] theorem releaseStep_nclient (s : State) : (releaseStep s).nclient = s.nclient := rfl
@[simp] theorem releaseStep_port (s : State) : (releaseStep s).port = s.port := rfl
@[simp] theorem releaseStep_events (s : State) : (releaseStep s).events = s.events := rfl
@[simp] theorem releaseStep_responder (s : State) : (releaseStep s).responder = s.responder := rfl
@[simp] theorem releaseStep_draws (s : State) : (releaseStep s).draws = s.draws := rfl
@[simp] theorem releaseStep_outputs (s : State) : (releaseStep s).outputs = s.outputs := rfl

/-! ## wholeTransfer -/

@[simp] theorem wholeTransfer_dev (h : Handle) (t : Transfer) (s : State) : (wholeTransfer h t s).dev = s.dev := rfl
@[simp] theorem wholeTransfer_held (h : Handle) (t : Transfer) (s : State) :
    (wholeTransfer h t s).held = s.held := rfl
@[simp] theorem wholeTransfer_tlock (h : Handle) (t : Transfer) (s : State) :
    (wholeTransfer h t s).tlock = s.tlock := rfl
@[simp] theorem wholeTransfer_addr (h : Handle) (t : Transfer) (s : State) :
    (wholeTransfer h t s).addr = a7Of t.sel := rfl
@[simp] theorem wholeTransfer_flights (h : Handle) (t : Transfer) (s : State) :
    (wholeTransfer h t s).flights = s.flights := rfl
@[simp] theorem wholeTransfer_nclient (h : Handle) (t : Transfer) (s : State) :
    (wholeTransfer h t s).nclient = s.nclient := rfl
@[simp] theorem wholeTransfer_port (h : Handle) (t : Transfer) (s : State) :
    (wholeTransfer h t s).port = s.port := rfl
@[simp] theorem wholeTransfer_events (h : Handle) (t : Transfer) (s : State) :
    (wholeTransfer h t s).events = s.events := rfl
@[simp] theorem wholeTransfer_responder (h : Handle) (t : Transfer) (s : State) :
    (wholeTransfer h t s).responder = responderAfter s.responder (busOpOf (a7Of t.sel) t) := rfl
@[simp] theorem wholeTransfer_draws (h : Handle) (t : Transfer) (s : State) :
    (wholeTransfer h t s).draws = s.draws + 1 := rfl
@[simp] theorem wholeTransfer_outputs (h : Handle) (t : Transfer) (s : State) :
    (wholeTransfer h t s).outputs = s.outputs ++ [.bus h (busOpOf (a7Of t.sel) t) (wholeResponse t s)] := rfl

/-! ## retargetStep -/

@[simp] theorem retargetStep_dev (p : Port) (r : Request) (n : Nat) (t : Transfer) (s : State) :
    (retargetStep p r n t s).dev = s.dev := rfl
@[simp] theorem retargetStep_held (p : Port) (r : Request) (n : Nat) (t : Transfer) (s : State) :
    (retargetStep p r n t s).held = s.held := rfl
@[simp] theorem retargetStep_tlock (p : Port) (r : Request) (n : Nat) (t : Transfer) (s : State) :
    (retargetStep p r n t s).tlock = s.tlock := rfl
@[simp] theorem retargetStep_addr (p : Port) (r : Request) (n : Nat) (t : Transfer) (s : State) :
    (retargetStep p r n t s).addr = a7Of t.sel := rfl
@[simp] theorem retargetStep_flights (p : Port) (r : Request) (n : Nat) (t : Transfer) (s : State) :
    (retargetStep p r n t s).flights = setFlight p ⟨r, .xact n .transfer⟩ s.flights := rfl
@[simp] theorem retargetStep_nclient (p : Port) (r : Request) (n : Nat) (t : Transfer) (s : State) :
    (retargetStep p r n t s).nclient = s.nclient := rfl
@[simp] theorem retargetStep_port (p : Port) (r : Request) (n : Nat) (t : Transfer) (s : State) :
    (retargetStep p r n t s).port = s.port := rfl
@[simp] theorem retargetStep_events (p : Port) (r : Request) (n : Nat) (t : Transfer) (s : State) :
    (retargetStep p r n t s).events = s.events := rfl
@[simp] theorem retargetStep_responder (p : Port) (r : Request) (n : Nat) (t : Transfer) (s : State) :
    (retargetStep p r n t s).responder = s.responder := rfl
@[simp] theorem retargetStep_draws (p : Port) (r : Request) (n : Nat) (t : Transfer) (s : State) :
    (retargetStep p r n t s).draws = s.draws := rfl
@[simp] theorem retargetStep_outputs (p : Port) (r : Request) (n : Nat) (t : Transfer) (s : State) :
    (retargetStep p r n t s).outputs = s.outputs := rfl

/-! ## transferStep -/

@[simp] theorem transferStep_dev (p : Port) (r : Request) (n : Nat) (t : Transfer) (s : State) :
    (transferStep p r n t s).dev = s.dev := rfl
@[simp] theorem transferStep_held (p : Port) (r : Request) (n : Nat) (t : Transfer) (s : State) :
    (transferStep p r n t s).held = s.held := rfl
@[simp] theorem transferStep_tlock (p : Port) (r : Request) (n : Nat) (t : Transfer) (s : State) :
    (transferStep p r n t s).tlock = s.tlock := rfl
@[simp] theorem transferStep_addr (p : Port) (r : Request) (n : Nat) (t : Transfer) (s : State) :
    (transferStep p r n t s).addr = s.addr := rfl
@[simp] theorem transferStep_flights (p : Port) (r : Request) (n : Nat) (t : Transfer) (s : State) :
    (transferStep p r n t s).flights = setFlight p ⟨r, .xact n (.release (busResponse (busOpOf s.addr t) s))⟩ s.flights := rfl
@[simp] theorem transferStep_nclient (p : Port) (r : Request) (n : Nat) (t : Transfer) (s : State) :
    (transferStep p r n t s).nclient = s.nclient := rfl
@[simp] theorem transferStep_port (p : Port) (r : Request) (n : Nat) (t : Transfer) (s : State) :
    (transferStep p r n t s).port = s.port := rfl
@[simp] theorem transferStep_events (p : Port) (r : Request) (n : Nat) (t : Transfer) (s : State) :
    (transferStep p r n t s).events = s.events := rfl
@[simp] theorem transferStep_responder (p : Port) (r : Request) (n : Nat) (t : Transfer) (s : State) :
    (transferStep p r n t s).responder = responderAfter s.responder (busOpOf s.addr t) := rfl
@[simp] theorem transferStep_draws (p : Port) (r : Request) (n : Nat) (t : Transfer) (s : State) :
    (transferStep p r n t s).draws = s.draws + 1 := rfl
@[simp] theorem transferStep_outputs (p : Port) (r : Request) (n : Nat) (t : Transfer) (s : State) :
    (transferStep p r n t s).outputs = s.outputs ++ [.bus (handleFor r s) (busOpOf s.addr t) (busResponse (busOpOf s.addr t) s)] := rfl

/-! ## serve -/

@[simp] theorem serve_dev (ev : Event) (rest : List Event) (s : State) : (serve ev rest s).dev = s.dev := rfl
@[simp] theorem serve_held (ev : Event) (rest : List Event) (s : State) : (serve ev rest s).held = s.held := rfl
@[simp] theorem serve_tlock (ev : Event) (rest : List Event) (s : State) : (serve ev rest s).tlock = s.tlock := rfl
@[simp] theorem serve_addr (ev : Event) (rest : List Event) (s : State) : (serve ev rest s).addr = s.addr := rfl
@[simp] theorem serve_flights (ev : Event) (rest : List Event) (s : State) :
    (serve ev rest s).flights = s.flights := rfl
@[simp] theorem serve_nclient (ev : Event) (rest : List Event) (s : State) :
    (serve ev rest s).nclient = s.nclient := rfl
@[simp] theorem serve_port (ev : Event) (rest : List Event) (s : State) : (serve ev rest s).port = eventPort ev := rfl
@[simp] theorem serve_events (ev : Event) (rest : List Event) (s : State) : (serve ev rest s).events = rest := rfl
@[simp] theorem serve_responder (ev : Event) (rest : List Event) (s : State) :
    (serve ev rest s).responder = s.responder := rfl
@[simp] theorem serve_draws (ev : Event) (rest : List Event) (s : State) : (serve ev rest s).draws = s.draws := rfl
@[simp] theorem serve_outputs (ev : Event) (rest : List Event) (s : State) :
    (serve ev rest s).outputs = s.outputs := rfl

/-! ## State.withFetchWord -/

@[simp] theorem State_withFetchWord_dev (s : State) (nbits w : Nat) : (s.withFetchWord nbits w).dev = s.dev := rfl
@[simp] theorem State_withFetchWord_held (s : State) (nbits w : Nat) : (s.withFetchWord nbits w).held = s.held := rfl
@[simp] theorem State_withFetchWord_tlock (s : State) (nbits w : Nat) :
    (s.withFetchWord nbits w).tlock = s.tlock := rfl
@[simp] theorem State_withFetchWord_addr (s : State) (nbits w : Nat) : (s.withFetchWord nbits w).addr = s.addr := rfl
@[simp] theorem State_withFetchWord_flights (s : State) (nbits w : Nat) :
    (s.withFetchWord nbits w).flights = s.flights := rfl
@[simp] theorem State_withFetchWord_nclient (s : State) (nbits w : Nat) :
    (s.withFetchWord nbits w).nclient = s.nclient := rfl
@[simp] theorem State_withFetchWord_port (s : State) (nbits w : Nat) : (s.withFetchWord nbits w).port = s.port := rfl
@[simp] theorem State_withFetchWord_events (s : State) (nbits w : Nat) :
    (s.withFetchWord nbits w).events = tableEvent nbits w :: s.events := rfl
@[simp] theorem State_withFetchWord_responder (s : State) (nbits w : Nat) :
    (s.withFetchWord nbits w).responder = s.responder := rfl
@[simp] theorem State_withFetchWord_draws (s : State) (nbits w : Nat) :
    (s.withFetchWord nbits w).draws = s.draws := rfl
@[simp] theorem State_withFetchWord_outputs (s : State) (nbits w : Nat) :
    (s.withFetchWord nbits w).outputs = s.outputs := rfl

end Sys2Proof.Machine
end

