-- ==== Sys2Proof/Laws/Flights.lean ====
section
/-! SUPPORT. The laws of the list of requests in flight: reading after setting and clearing, the canonical form, and
what a set or a clear does to the members and to a count of them. -/

namespace Sys2Proof.Machine

variable {p q : Port} {f g : Flight} {fs : List (Port × Flight)}

/-! ## Reading -/

@[simp] theorem flightOn_nil : flightOn p [] = none := rfl

@[simp] theorem flightOn_cons_same : flightOn p ((p, f) :: fs) = some f := by
  simp [flightOn]

theorem flightOn_cons_other (h : q ≠ p) : flightOn p ((q, f) :: fs) = flightOn p fs := by
  simp [flightOn, h]

@[simp] theorem flightOn_setFlight_same (p : Port) (f : Flight) (fs : List (Port × Flight)) :
    flightOn p (setFlight p f fs) = some f := by
  induction fs with
  | nil => simp [setFlight]
  | cons e rest ih =>
    obtain ⟨q, g⟩ := e
    simp only [setFlight]
    split_ifs with h1 h2
    · simp
    · simp
    · rw [flightOn_cons_other h1, ih]

theorem flightOn_setFlight_other (h : q ≠ p) : flightOn q (setFlight p f fs) = flightOn q fs := by
  induction fs with
  | nil => simp [setFlight, flightOn, Ne.symm h]
  | cons e rest ih =>
    obtain ⟨r, g⟩ := e
    simp only [setFlight]
    split_ifs with h1 h2
    · subst h1; rw [flightOn_cons_other (Ne.symm h), flightOn_cons_other (Ne.symm h)]
    · rw [flightOn_cons_other (Ne.symm h)]
    · simp only [flightOn, ih]

@[simp] theorem flightOn_clearFlight_same : flightOn p (clearFlight p fs) = none := by
  induction fs with
  | nil => rfl
  | cons e rest ih =>
    obtain ⟨r, g⟩ := e
    by_cases h : r = p
    · simpa [clearFlight, List.filter_cons, h] using ih
    · simpa [clearFlight, List.filter_cons, h, flightOn] using ih

theorem flightOn_clearFlight_other (h : q ≠ p) : flightOn q (clearFlight p fs) = flightOn q fs := by
  induction fs with
  | nil => rfl
  | cons e rest ih =>
    obtain ⟨r, g⟩ := e
    by_cases hr : r = p
    · subst hr
      rw [flightOn_cons_other (Ne.symm h), ← ih]
      simp [clearFlight]
    · by_cases hq : r = q
      · subst hq
        simp [clearFlight, hr]
      · rw [flightOn_cons_other hq, ← ih]
        simp [clearFlight, hr, flightOn, hq]

/-! ## Setting again and clearing -/

@[simp] theorem setFlight_setFlight (p : Port) (f g : Flight) (fs : List (Port × Flight)) :
    setFlight p g (setFlight p f fs) = setFlight p g fs := by
  induction fs with
  | nil => simp [setFlight]
  | cons e rest ih =>
    obtain ⟨q, h⟩ := e
    simp only [setFlight]
    split_ifs with h1 h2
    · simp [setFlight]
    · simp [setFlight]
    · simp [setFlight, h1, h2, ih]

theorem clearFlight_of_idle (h : flightOn p fs = none) : clearFlight p fs = fs := by
  induction fs with
  | nil => rfl
  | cons e rest ih =>
    obtain ⟨q, g⟩ := e
    by_cases hq : q = p
    · simp [flightOn, hq] at h
    · rw [flightOn_cons_other hq] at h
      simpa [clearFlight, hq] using ih h

@[simp] theorem clearFlight_setFlight (p : Port) (f : Flight) (fs : List (Port × Flight)) :
    clearFlight p (setFlight p f fs) = clearFlight p fs := by
  induction fs with
  | nil => simp [setFlight, clearFlight]
  | cons e rest ih =>
    obtain ⟨q, h⟩ := e
    simp only [setFlight]
    split_ifs with h1 h2
    · simp [clearFlight, h1]
    · simp [clearFlight]
    · simp only [clearFlight, List.filter_cons] at ih ⊢
      rw [ih]

/-- A request that comes and goes leaves the list as it was. -/
theorem clearFlight_setFlight_of_idle (h : flightOn p fs = none) : clearFlight p (setFlight p f fs) = fs := by
  rw [clearFlight_setFlight, clearFlight_of_idle h]

/-! ## Members -/

theorem mem_setFlight {e : Port × Flight} (h : e ∈ setFlight p f fs) : e = (p, f) ∨ e ∈ fs := by
  induction fs with
  | nil => simpa [setFlight] using h
  | cons d rest ih =>
    obtain ⟨q, g⟩ := d
    simp only [setFlight] at h
    split_ifs at h with h1 h2
    · rcases List.mem_cons.1 h with h | h <;> simp [h]
    · rcases List.mem_cons.1 h with h | h
      · simp [h]
      · exact .inr h
    · rcases List.mem_cons.1 h with h | h
      · exact .inr (by simp [h])
      · rcases ih h with h | h <;> simp [h]

theorem mem_clearFlight {e : Port × Flight} : e ∈ clearFlight p fs ↔ e ∈ fs ∧ e.1 ≠ p := by
  simp [clearFlight]

theorem mem_of_flightOn (h : flightOn p fs = some f) : (p, f) ∈ fs := by
  induction fs with
  | nil => simp at h
  | cons e rest ih =>
    obtain ⟨q, g⟩ := e
    by_cases hq : q = p
    · subst hq; simp only [flightOn_cons_same, Option.some.injEq] at h; simp [h]
    · rw [flightOn_cons_other hq] at h; exact List.mem_cons_of_mem _ (ih h)

/-! ## The canonical form -/

theorem portRank_injective : Function.Injective portRank := by
  intro a b h
  cases a <;> cases b <;> simp_all [portRank]

/-- The canonical form, as a pairwise order on the ports. -/
theorem flightsSorted_iff :
    flightsSorted fs = true ↔ fs.Pairwise fun a b => portRank a.1 < portRank b.1 := by
  induction fs with
  | nil => simp [flightsSorted]
  | cons e rest ih =>
    obtain ⟨q, g⟩ := e
    cases rest with
    | nil => simp [flightsSorted]
    | cons d rest =>
      obtain ⟨r, k⟩ := d
      rw [List.pairwise_cons, ← ih]
      simp only [flightsSorted, Bool.and_eq_true, decide_eq_true_eq]
      constructor
      · rintro ⟨h1, h2⟩
        refine ⟨?_, h2⟩
        have := (List.pairwise_cons.1 (ih.1 h2)).1
        intro a ha
        rcases List.mem_cons.1 ha with rfl | ha
        · exact h1
        · exact h1.trans (this a ha)
      · rintro ⟨h1, h2⟩
        exact ⟨h1 (r, k) (by simp), h2⟩

theorem flightsSorted_setFlight (h : flightsSorted fs = true) : flightsSorted (setFlight p f fs) = true := by
  rw [flightsSorted_iff] at h ⊢
  induction fs with
  | nil => simp [setFlight]
  | cons e rest ih =>
    obtain ⟨q, g⟩ := e
    rw [List.pairwise_cons] at h
    simp only [setFlight]
    split_ifs with h1 h2
    · subst h1; exact List.pairwise_cons.2 h
    · refine List.pairwise_cons.2 ⟨?_, List.pairwise_cons.2 h⟩
      intro a ha
      rcases List.mem_cons.1 ha with rfl | ha
      · exact h2
      · exact h2.trans (h.1 a ha)
    · refine List.pairwise_cons.2 ⟨?_, ih h.2⟩
      intro a ha
      rcases mem_setFlight ha with rfl | ha
      · have : portRank p ≠ portRank q := fun e => h1 (portRank_injective e).symm
        simp only at h2 ⊢
        omega
      · exact h.1 a ha

theorem flightsSorted_clearFlight (h : flightsSorted fs = true) : flightsSorted (clearFlight p fs) = true := by
  rw [flightsSorted_iff] at h ⊢
  exact h.filter _

/-- In canonical form the flight read on a port is the only one there. -/
theorem eq_of_mem_of_flightOn (h : flightsSorted fs = true) (hf : flightOn p fs = some f)
    {e : Port × Flight} (he : e ∈ fs) (hp : e.1 = p) : e = (p, f) := by
  rw [flightsSorted_iff] at h
  induction fs with
  | nil => simp at he
  | cons d rest ih =>
    obtain ⟨q, g⟩ := d
    rw [List.pairwise_cons] at h
    by_cases hq : q = p
    · subst hq
      simp only [flightOn_cons_same, Option.some.injEq] at hf
      subst hf
      rcases List.mem_cons.1 he with he | he
      · exact he
      · have := h.1 e he
        simp only [hp, lt_self_iff_false] at this
    · rw [flightOn_cons_other hq] at hf
      rcases List.mem_cons.1 he with he | he
      · rw [he] at hp
        exact absurd hp hq
      · exact ih h.2 hf he

/-! ## Counting -/

/-- Setting the flight of an idle port adds it to a count. -/
theorem countP_setFlight_idle (P : Port × Flight → Bool) (h : flightOn p fs = none) :
    (setFlight p f fs).countP P = fs.countP P + (if P (p, f) then 1 else 0) := by
  induction fs with
  | nil => simp [setFlight, List.countP_cons]
  | cons e rest ih =>
    obtain ⟨q, g⟩ := e
    by_cases hq : q = p
    · simp [flightOn, hq] at h
    · rw [flightOn_cons_other hq] at h
      simp only [setFlight, hq, if_false]
      split_ifs with h2 h3 h3 <;> simp_all [List.countP_cons, Nat.add_right_comm]

/-- Setting the flight of a port exchanges it in a count. -/
theorem countP_setFlight (P : Port × Flight → Bool) (hs : flightsSorted fs = true) (h : flightOn p fs = some g) :
    (setFlight p f fs).countP P + (if P (p, g) then 1 else 0) = fs.countP P + (if P (p, f) then 1 else 0) := by
  rw [flightsSorted_iff] at hs
  induction fs with
  | nil => simp at h
  | cons e rest ih =>
    obtain ⟨q, k⟩ := e
    rw [List.pairwise_cons] at hs
    by_cases hq : q = p
    · subst hq
      simp only [flightOn_cons_same, Option.some.injEq] at h
      subst h
      simp only [setFlight, if_true, List.countP_cons]
      omega
    · rw [flightOn_cons_other hq] at h
      have hlt : ¬ portRank p < portRank q := by
        have := hs.1 _ (mem_of_flightOn h)
        simp only at this
        omega
      have := ih hs.2 h
      simp only [setFlight, hq, if_false, hlt, List.countP_cons]
      omega

/-- Clearing the flight of a port takes it from a count. -/
theorem countP_clearFlight (P : Port × Flight → Bool) (hs : flightsSorted fs = true) (h : flightOn p fs = some g) :
    (clearFlight p fs).countP P + (if P (p, g) then 1 else 0) = fs.countP P := by
  rw [flightsSorted_iff] at hs
  induction fs with
  | nil => simp at h
  | cons e rest ih =>
    obtain ⟨q, k⟩ := e
    rw [List.pairwise_cons] at hs
    by_cases hq : q = p
    · subst hq
      simp only [flightOn_cons_same, Option.some.injEq] at h
      subst h
      have : clearFlight q rest = rest := by
        rw [clearFlight, List.filter_eq_self]
        intro a ha
        have := hs.1 a ha
        simp only at this
        have hne : a.1 ≠ q := fun e => by rw [e] at this; omega
        simpa using hne
      have hc : clearFlight q ((q, k) :: rest) = rest := by
        simpa [clearFlight] using this
      rw [hc, List.countP_cons]
    · rw [flightOn_cons_other hq] at h
      have := ih hs.2 h
      have hc : clearFlight p ((q, k) :: rest) = (q, k) :: clearFlight p rest := by
        simp [clearFlight, hq]
      rw [hc, List.countP_cons, List.countP_cons]
      omega

end Sys2Proof.Machine
end

