-- ==== Sys2Proof/Laws/Micro.lean ====
section
/-! SUPPORT. What a micro-step can do, said once per kind of micro-step, and how a request driven alone goes through
a transaction. -/

namespace Sys2Proof.Machine

variable {p : Port} {r : Request} {n : Nat} {t : Transfer} {s s' : State} {o : StepOutcome}

/-! ## Sequencing

`thenStep_next` and its like are proved by rewriting and not by rfl: a proof that leaves `drive 25 p s` to be compared by
unfolding makes the kernel run 25 symbolic micro-steps. -/

@[simp] theorem thenStep_next (s : State) (f : State → StepOutcome) : thenStep (.next s) f = f s := by
  simp only [thenStep]

@[simp] theorem thenStep_refused (why : Refusal) (f : State → StepOutcome) :
    thenStep (.refused why) f = .refused why := by
  simp only [thenStep]

theorem thenStep_eq_next {f : State → StepOutcome} (h : thenStep o f = .next s') :
    ∃ s, o = .next s ∧ f s = .next s' := by
  cases o with
  | next s => exact ⟨s, rfl, h⟩
  | fault r => exact nomatch r
  | refused _ => simp [thenStep] at h

@[simp] theorem require_true (why : Refusal) (k : StepOutcome) : require true why k = k := rfl

@[simp] theorem require_false (why : Refusal) (k : StepOutcome) : require false why k = .refused why := rfl

theorem require_eq_next {c : Bool} {why : Refusal} {k : StepOutcome} (h : require c why k = .next s') :
    c = true ∧ k = .next s' := by
  cases c
  · simp at h
  · exact ⟨rfl, h⟩

/-! ## Micro-steps -/

theorem microStep_of_idle (h : flightOn p s.flights = none) : microStep p s = .next s := by
  simp [microStep, h]

theorem microStep_start (h : flightOn p s.flights = some ⟨r, .start⟩) : microStep p s = startStep p r s := by
  simp [microStep, h]

theorem microStep_openS2 (h : flightOn p s.flights = some ⟨.openSession, .openS2⟩) :
    microStep p s = openS2 p s := by
  simp [microStep, h]

theorem microStep_expose {hd : Handle} (h : flightOn p s.flights = some ⟨.attach hd, .expose⟩) :
    microStep p s = exposeStep p hd s := by
  simp [microStep, h]

theorem microStep_xact {ph : Phase} (h : flightOn p s.flights = some ⟨r, .xact n ph⟩) :
    microStep p s = xactStep p r n ph s := by
  simp [microStep, h]

theorem xactStep_acquire (ht : (transfersOf r)[n]? = some t) :
    xactStep p r n .acquire s = .next (acquireStep p r n s) := by
  simp [xactStep, ht]

theorem xactStep_retarget (ht : (transfersOf r)[n]? = some t) :
    xactStep p r n .retarget s = .next (retargetStep p r n t s) := by
  simp [xactStep, ht]

theorem xactStep_transfer (ht : (transfersOf r)[n]? = some t) :
    xactStep p r n .transfer s = .next (transferStep p r n t s) := by
  simp [xactStep, ht]

theorem xactStep_release {resp : BusResp} (ht : (transfersOf r)[n]? = some t) :
    xactStep p r n (.release resp) s = afterTransfer p r n t resp (releaseStep s) := by
  simp [xactStep, ht]

theorem acquireStep_free (h : s.tlock = .free) :
    acquireStep p r n s = advance p r (.xact n .retarget) { s with tlock := .held } := by
  simp [acquireStep, h]

theorem acquireStep_held (h : s.tlock = .held) : acquireStep p r n s = s := by
  simp [acquireStep, h]

/-! ## A request driven alone -/

@[simp] theorem drive_zero : drive 0 p s = .next s := rfl

theorem drive_succ (k : Nat) (p : Port) (s : State) :
    drive (k + 1) p s = thenStep (microStep p s) (drive k p) := by
  simp only [drive]

theorem drive_of_idle (k : Nat) (h : flightOn p s.flights = none) : drive k p s = .next s := by
  induction k with
  | zero => rfl
  | succ k ih => rw [drive_succ, microStep_of_idle h, thenStep_next, ih]

theorem microStep_waiting (h : flightOn p s.flights = some ⟨r, .xact n .acquire⟩)
    (ht : (transfersOf r)[n]? = some t) (hl : s.tlock = .held) : microStep p s = .next s := by
  rw [microStep_xact h, xactStep_acquire ht, acquireStep_held hl]

theorem drive_waiting (k : Nat) (h : flightOn p s.flights = some ⟨r, .xact n .acquire⟩)
    (ht : (transfersOf r)[n]? = some t) (hl : s.tlock = .held) : drive k p s = .next s := by
  induction k with
  | zero => rfl
  | succ k ih => rw [drive_succ, microStep_waiting h ht hl, thenStep_next, ih]

/-- The state at T4 of a transaction that found the lock free: the whole transaction has happened, and its response is
at hand. -/
def atRelease (p : Port) (r : Request) (n : Nat) (t : Transfer) (s : State) : State :=
  advance p r (.xact n (.release (wholeResponse t s))) (wholeTransfer (handleFor r s) t s)

/-- T1 to T4 of a transaction driven alone on a free lock are the whole transaction, then what the invoking operation
does with its response. -/
theorem drive_transaction (k : Nat) (h : flightOn p s.flights = some ⟨r, .xact n .acquire⟩)
    (ht : (transfersOf r)[n]? = some t) (hl : s.tlock = .free) :
    drive (k + 4) p s =
      thenStep (afterTransfer p r n t (wholeResponse t s) (atRelease p r n t s)) (drive k p) := by
  rw [drive_succ (k + 3), microStep_xact h, xactStep_acquire ht, thenStep_next, acquireStep_free hl]
  rw [drive_succ (k + 2), microStep_xact (r := r) (n := n) (ph := .retarget) (by simp), xactStep_retarget ht,
    thenStep_next]
  rw [drive_succ (k + 1), microStep_xact (r := r) (n := n) (ph := .transfer) (by simp), xactStep_transfer ht,
    thenStep_next]
  rw [drive_succ k, microStep_xact (r := r) (n := n) (by simp; rfl), xactStep_release ht]
  congr 1
  obtain ⟨dev, held, tlock, addr, flights, port, events, rsp, draws, outs⟩ := s
  simp only at hl
  subst hl
  cases r <;>
    simp [atRelease, wholeTransfer, releaseStep, transferStep, retargetStep, advance, emitBus, handleFor, wholeResponse,
      busResponse]

@[simp] theorem atRelease_flightOn : flightOn p (atRelease p r n t s).flights =
    some ⟨r, .xact n (.release (wholeResponse t s))⟩ := by
  simp [atRelease]

/-! ## The log -/

/-- Everything an initialisation write leaves in the log. -/
theorem initLog_cases (step : LogStep) (reg : Byte) (resp : BusResp) :
    (∃ code, resp = .fail code ∧ initLog step reg resp = [.log step reg code]) ∨
      ((∀ code, resp ≠ .fail code) ∧ initLog step reg resp = []) := by
  cases resp with
  | fail code => exact .inl ⟨code, rfl, rfl⟩
  | okRead _ => exact .inr ⟨by simp, rfl⟩
  | okWrite => exact .inr ⟨by simp, rfl⟩

theorem logStep_succ (n : Nat) : logStep n + 1#3 = logStep (n + 1) := by
  simp [logStep, BitVec.ofNat_add]

/-- A log event of the `n`-th initialisation write names its step. -/
theorem logEventFits_logStep {hd : Handle} (h : (transfersOf (.attach hd))[n]? = some t) (code : BusCode) :
    logEventFits (.log (logStep n) t.reg code) = true := by
  have hn : n < 6 := (List.getElem?_eq_some_iff.1 h).1
  interval_cases n <;> cases h <;> rfl

/-! ## Presenting a request -/

theorem accept_eq (hp : r.acceptedOn p = true) (hi : idle p s)
    (hd : r ≠ .detach ∨ transferInFlight s.flights = false) : accept p r s = .next (advance p r .start s) := by
  have : (r != .detach || !transferInFlight s.flights) = true := by
    rcases hd with hd | hd
    · simp [bne_iff_ne.2 hd]
    · simp [hd]
  simp [accept, hp, hi.1, hi.2, this]

/-- What presenting a request does when it is not refused. -/
theorem accept_eq_next (h : accept p r s = .next s') :
    s' = advance p r .start s ∧ r.acceptedOn p = true ∧ idle p s ∧
      (r ≠ .detach ∨ transferInFlight s.flights = false) := by
  obtain ⟨h1, h⟩ := require_eq_next h
  obtain ⟨h2, h⟩ := require_eq_next h
  obtain ⟨h3, h⟩ := require_eq_next h
  obtain ⟨ha, hx⟩ : r.acceptedOn p = true ∧ p.existsIn s.nclient = true := by simpa using h1
  refine ⟨by simpa using h.symm, ha, ⟨hx, by simpa using h2⟩, ?_⟩
  by_cases hr : r = .detach
  · right; simpa [hr] using h3
  · exact .inl hr

theorem runRequest_eq (hp : r.acceptedOn s.port = true) (hi : idle s.port s)
    (hd : r ≠ .detach ∨ transferInFlight s.flights = false) :
    runRequest r s = thenStep (startStep s.port r (advance s.port r .start s)) (drive 25 s.port) := by
  rw [runRequest, accept_eq hp hi hd, thenStep_next, microBudget, drive_succ 25, microStep_start (r := r) (by simp)]

end Sys2Proof.Machine
end

