-- ==== Sys2Proof/Laws/Inversion.lean ====
section
/-! SUPPORT. Everything a micro-step can do, said once: if it answers a next state, one of these cases holds. -/

namespace Sys2Proof.Machine

/-- What a micro-step of port `p` in state `s` can lead to. -/
inductive MicroCase (p : Port) (s : State) : State → Prop where
  | idle : flightOn p s.flights = none → MicroCase p s s
  | attachStarts (h : Handle) : flightOn p s.flights = some ⟨.attach h, .start⟩ → s.dev = none →
      MicroCase p s (advance p (.attach h) (.xact 0 .acquire) s)
  | detaches : flightOn p s.flights = some ⟨.detach, .start⟩ → transferInFlight s.flights = false →
      MicroCase p s (respond p .ok
        { s with dev := none, held := false, addr := Config.freeAddr s.draws, draws := s.draws + 1 })
  | openBusy : flightOn p s.flights = some ⟨.openSession, .start⟩ → s.held = true →
      MicroCase p s (respond p .deviceBusy s)
  | openTakes : flightOn p s.flights = some ⟨.openSession, .start⟩ → s.held = false →
      MicroCase p s (advance p .openSession .openS2 { s with held := true })
  | openAbsent : flightOn p s.flights = some ⟨.openSession, .openS2⟩ → s.dev = none →
      MicroCase p s (respond p .deviceNotReady { s with held := false })
  | openDone (h : Handle) : flightOn p s.flights = some ⟨.openSession, .openS2⟩ → s.dev = some h →
      MicroCase p s (respond p .ok s)
  | closes : flightOn p s.flights = some ⟨.closeSession, .start⟩ → s.held = true →
      MicroCase p s (respond p .ok { s with held := false })
  | transactStarts (kind : Kind) (sel : Chip) (reg : Byte) (value : WriteValue) :
      flightOn p s.flights = some ⟨.transact kind sel reg value, .start⟩ → s.held = true →
      MicroCase p s (advance p (.transact kind sel reg value) (.xact 0 .acquire) s)
  | sendStarts (tag : Tag) (payload : Byte) :
      flightOn p s.flights = some ⟨.sendCmd tag payload, .start⟩ → s.held = true →
      MicroCase p s (advance p (.sendCmd tag payload) (.xact 0 .acquire) s)
  | waits (r : Request) (n : Nat) (t : Transfer) : flightOn p s.flights = some ⟨r, .xact n .acquire⟩ →
      (transfersOf r)[n]? = some t → s.tlock = .held → MicroCase p s s
  | acquires (r : Request) (n : Nat) (t : Transfer) : flightOn p s.flights = some ⟨r, .xact n .acquire⟩ →
      (transfersOf r)[n]? = some t → s.tlock = .free →
      MicroCase p s (advance p r (.xact n .retarget) { s with tlock := .held })
  | retargets (r : Request) (n : Nat) (t : Transfer) : flightOn p s.flights = some ⟨r, .xact n .retarget⟩ →
      (transfersOf r)[n]? = some t → MicroCase p s (retargetStep p r n t s)
  | transfers (r : Request) (n : Nat) (t : Transfer) : flightOn p s.flights = some ⟨r, .xact n .transfer⟩ →
      (transfersOf r)[n]? = some t → MicroCase p s (transferStep p r n t s)
  | attachGoesOn (h : Handle) (n : Nat) (t : Transfer) (resp : BusResp) :
      flightOn p s.flights = some ⟨.attach h, .xact n (.release resp)⟩ →
      (transfersOf (.attach h))[n]? = some t →
      MicroCase p s (advance p (.attach h) (if n + 1 < initTable.length then .xact (n + 1) .acquire else .expose)
        { s with tlock := .free, outputs := s.outputs ++ initLog (logStep n) t.reg resp })
  | transactEnds (kind : Kind) (sel : Chip) (reg : Byte) (value : WriteValue) (n : Nat) (t : Transfer)
      (resp : BusResp) : flightOn p s.flights = some ⟨.transact kind sel reg value, .xact n (.release resp)⟩ →
      (transfersOf (.transact kind sel reg value))[n]? = some t →
      MicroCase p s (respond p (transactResponse resp) { s with tlock := .free })
  | sendEnds (tag : Tag) (payload : Byte) (n : Nat) (t : Transfer) (resp : BusResp) (r : Response) :
      flightOn p s.flights = some ⟨.sendCmd tag payload, .xact n (.release resp)⟩ →
      (transfersOf (.sendCmd tag payload))[n]? = some t →
      (r = .ok ∨ ∃ code, r = .busError code) → MicroCase p s (respond p r { s with tlock := .free })
  | sendGoesOn (tag : Tag) (payload : Byte) (n : Nat) (t : Transfer) (resp : BusResp) :
      flightOn p s.flights = some ⟨.sendCmd tag payload, .xact n (.release resp)⟩ →
      (transfersOf (.sendCmd tag payload))[n]? = some t → n + 1 < (wire tag payload).length →
      MicroCase p s (advance p (.sendCmd tag payload) (.xact (n + 1) .acquire) { s with tlock := .free })
  | exposes (h : Handle) : flightOn p s.flights = some ⟨.attach h, .expose⟩ →
      MicroCase p s (respond p .ok { s with dev := some h })

/-- The inversion of a micro-step. -/
theorem microStep_cases {p : Port} {s s' : State} (h : microStep p s = .next s') : MicroCase p s s' := by
  cases hf : flightOn p s.flights with
  | none =>
    rw [microStep_of_idle hf] at h
    cases h
    exact .idle hf
  | some f =>
    obtain ⟨r, m⟩ := f
    cases m with
    | start =>
      rw [microStep_start hf] at h
      cases r with
      | attach hd =>
        obtain ⟨h1, h⟩ := require_eq_next h
        cases h
        exact .attachStarts hd hf (by simpa using h1)
      | detach =>
        obtain ⟨h1, h⟩ := require_eq_next h
        cases h
        exact .detaches hf (by simpa using h1)
      | openSession =>
        simp only [startStep, openS1] at h
        split at h
        · cases h; exact .openBusy hf ‹_›
        · rename_i hh; cases h; exact .openTakes hf (by simpa using hh)
      | closeSession =>
        obtain ⟨h1, h⟩ := require_eq_next h
        cases h
        exact .closes hf h1
      | transact kind sel reg value =>
        obtain ⟨h1, h⟩ := require_eq_next h
        obtain ⟨_, h⟩ := require_eq_next h
        cases h
        exact .transactStarts kind sel reg value hf h1
      | sendCmd tag payload =>
        obtain ⟨h1, h⟩ := require_eq_next h
        cases h
        exact .sendStarts tag payload hf h1
    | openS2 =>
      cases r with
      | openSession =>
        rw [microStep_openS2 hf] at h
        cases hd : s.dev with
        | none => simp only [openS2, hd] at h; cases h; exact hd ▸ .openAbsent hf hd
        | some hh => simp only [openS2, hd] at h; cases h; exact .openDone hh hf hd
      | _ => simp [microStep, hf] at h
    | expose =>
      cases r with
      | attach hd => rw [microStep_expose hf] at h; cases h; exact .exposes hd hf
      | _ => simp [microStep, hf] at h
    | xact n ph =>
      rw [microStep_xact hf] at h
      cases ht : (transfersOf r)[n]? with
      | none => simp [xactStep, ht] at h
      | some t =>
        cases ph with
        | acquire =>
          rw [xactStep_acquire ht] at h
          cases hl : s.tlock with
          | held => rw [acquireStep_held hl] at h; cases h; exact .waits r n t hf ht hl
          | free => rw [acquireStep_free hl] at h; cases h; exact .acquires r n t hf ht hl
        | retarget => rw [xactStep_retarget ht] at h; cases h; exact .retargets r n t hf ht
        | transfer => rw [xactStep_transfer ht] at h; cases h; exact .transfers r n t hf ht
        | release resp =>
          rw [xactStep_release ht] at h
          cases r with
          | attach hd => cases h; exact .attachGoesOn hd n t resp hf ht
          | transact kind sel reg value => cases h; exact .transactEnds kind sel reg value n t resp hf ht
          | sendCmd tag payload =>
            simp only [afterTransfer, sendAfter] at h
            split at h
            · cases h; exact .sendEnds tag payload n t _ _ hf ht (.inr ⟨_, rfl⟩)
            all_goals
              split at h
              · cases h; exact .sendGoesOn tag payload n t _ hf ht ‹_›
              · cases h; exact .sendEnds tag payload n t _ _ hf ht (.inl rfl)
          | _ => simp [afterTransfer] at h

/-- A command is the running of its raw Command on the port it is presented on. -/
theorem exec_of_raw {i : Instr} {tag : Tag} {payload : Byte} (h : i.raw? = some (tag, payload)) (s : State) :
    exec i s = runCommand tag payload s := by
  cases i <;> simp [Instr.raw?] at h <;> obtain ⟨rfl, rfl⟩ := h <;> rfl

/-- Everything a step does is presenting, micro-steps, and outputs of the codec ports: what holds after each of them
holds after every step. -/
theorem step_induction {P : State → Prop} {s s' : State} (h : step s = .next s') (hs : P s)
    (hserve : ∀ ev rest s, P s → P (serve ev rest s))
    (hpresent : ∀ p r s, r.acceptedOn p = true → idle p s → P s → P (advance p r .start s))
    (hmicro : ∀ p s s', MicroCase p s s' → P s → P s')
    (henc : ∀ o s, P s → P (output (.enc o) s)) (hdec : ∀ o s, P s → P (output (.dec o) s)) :
    P s' := by
  have hdrive : ∀ k p s s', P s → drive k p s = .next s' → P s' := by
    intro k
    induction k with
    | zero => intro p s s' hs h; cases h; exact hs
    | succ k ih =>
      intro p s s' hs h
      obtain ⟨s1, h1, h2⟩ := thenStep_eq_next h
      exact ih p s1 s' (hmicro p s s1 (microStep_cases h1) hs) h2
  have haccept : ∀ p r s s', P s → accept p r s = .next s' → P s' := by
    intro p r s s' hs h
    obtain ⟨rfl, h1, h2, _⟩ := accept_eq_next h
    exact hpresent p r s h1 h2 hs
  have hrun : ∀ r s s', P s → runRequest r s = .next s' → P s' := by
    intro r s s' hs h
    obtain ⟨s1, h1, h2⟩ := thenStep_eq_next h
    exact hdrive _ _ _ _ (haccept _ _ _ _ hs h1) h2
  have hcmd : ∀ tag payload s s', P s → runCommand tag payload s = .next s' → P s' := by
    intro tag payload s s' hs h
    simp only [runCommand] at h
    split at h
    · cases h; exact henc _ _ hs
    · simp only [decPort] at h
      split at h <;> first | (cases h; exact hdec _ _ hs) | cases h
    · exact hrun _ _ _ hs h
    · cases h
  have hexec : ∀ i s s', P s → exec i s = .next s' → P s' := by
    intro i s s' hs h
    cases i <;> first | exact hcmd _ _ _ _ hs h | exact hrun _ _ _ hs h
  simp only [step] at h
  split at h
  · cases h; exact hs
  · have hs' := fun ev rest => hserve ev rest s hs
    split at h
    · exact hexec _ _ _ (hs' _ _) h
    · exact haccept _ _ _ _ (hs' _ _) h
    · exact hmicro _ _ _ (microStep_cases h) (hs' _ _)
    · cases h; exact hdec _ _ (hs' _ _)
    · cases h

end Sys2Proof.Machine
end

