-- ==== Sys2Proof/Laws/Memory.lean ====
section
/-! SUPPORT. The ideal responder's bytes: read after write, and the canonical form is kept. -/

namespace Sys2Proof.Machine

@[simp] theorem Memory.read_write_same (a : Nat) (b : Byte) (m : Memory) : (Memory.write a b m).read a = some b := by
  induction m with
  | nil => simp [Memory.write, Memory.read]
  | cons e rest ih =>
    obtain ⟨k, c⟩ := e
    simp only [Memory.write]
    split_ifs with h1 h2
    · simp [Memory.read]
    · simp [Memory.read]
    · simp [Memory.read, h1, ih]

theorem Memory.read_write_other {a a' : Nat} (h : a' ≠ a) (b : Byte) (m : Memory) :
    (Memory.write a b m).read a' = m.read a' := by
  induction m with
  | nil => simp [Memory.write, Memory.read, Ne.symm h]
  | cons e rest ih =>
    obtain ⟨k, c⟩ := e
    simp only [Memory.write]
    split_ifs with h1 h2
    · subst h1; simp [Memory.read, Ne.symm h]
    · simp [Memory.read, Ne.symm h]
    · simp only [Memory.read, ih]

/-- The canonical form, as a pairwise order on the addresses. -/
theorem Memory.wf_iff (m : Memory) : Memory.wf m = true ↔ m.Pairwise fun a b => a.1 < b.1 := by
  induction m with
  | nil => simp [Memory.wf]
  | cons e rest ih =>
    obtain ⟨k, c⟩ := e
    cases rest with
    | nil => simp [Memory.wf]
    | cons d rest =>
      obtain ⟨k', c'⟩ := d
      rw [List.pairwise_cons, ← ih]
      simp only [Memory.wf, Bool.and_eq_true, decide_eq_true_eq]
      constructor
      · rintro ⟨h1, h2⟩
        refine ⟨?_, h2⟩
        have := (List.pairwise_cons.1 (ih.1 h2)).1
        intro a ha
        rcases List.mem_cons.1 ha with rfl | ha
        · exact h1
        · exact h1.trans (this a ha)
      · rintro ⟨h1, h2⟩
        exact ⟨h1 (k', c') (by simp), h2⟩

theorem Memory.mem_write {a : Nat} {b : Byte} {m : Memory} {e : Nat × Byte} (h : e ∈ Memory.write a b m) :
    e = (a, b) ∨ e ∈ m := by
  induction m with
  | nil => simpa [Memory.write] using h
  | cons d rest ih =>
    obtain ⟨k, c⟩ := d
    simp only [Memory.write] at h
    split_ifs at h with h1 h2
    · rcases List.mem_cons.1 h with h | h <;> simp [h]
    · rcases List.mem_cons.1 h with h | h
      · simp [h]
      · exact .inr h
    · rcases List.mem_cons.1 h with h | h
      · exact .inr (by simp [h])
      · rcases ih h with h | h <;> simp [h]

/-- Every store keeps the canonical form. -/
theorem Memory.wf_write (a : Nat) (b : Byte) {m : Memory} (h : Memory.wf m = true) :
    Memory.wf (Memory.write a b m) = true := by
  rw [Memory.wf_iff] at h ⊢
  induction m with
  | nil => simp [Memory.write]
  | cons e rest ih =>
    obtain ⟨k, c⟩ := e
    rw [List.pairwise_cons] at h
    simp only [Memory.write]
    split_ifs with h1 h2
    · subst h1; exact List.pairwise_cons.2 h
    · refine List.pairwise_cons.2 ⟨?_, List.pairwise_cons.2 h⟩
      intro x hx
      rcases List.mem_cons.1 hx with rfl | hx
      · exact h2
      · exact h2.trans (h.1 x hx)
    · refine List.pairwise_cons.2 ⟨?_, ih h.2⟩
      intro x hx
      rcases Memory.mem_write hx with rfl | hx
      · simp only at *
        omega
      · exact h.1 x hx

/-- The responder's bytes stay in canonical form whatever the bus operation. -/
theorem responderWf_after (op : BusOp) {rsp : Responder} (h : responderWf rsp = true) :
    responderWf (responderAfter rsp op) = true := by
  cases rsp with
  | blackBox _ => rfl
  | ideal cells =>
    cases op with
    | read _ _ => exact h
    | write _ _ _ => exact Memory.wf_write _ _ h

/-- Reset lists no byte. -/
theorem reset_responderWf : responderWf State.reset.responder = true := rfl

end Sys2Proof.Machine
end

