-- ==== Sys2Proof/Laws/PerInstr.lean ====
section
/-! SUPPORT. The family `RowMatch`: a statement about every instruction as syntax, one lemma per constructor. -/

namespace Sys2Proof.Laws

/-- Some row of spec/opcode_table.json has the instruction's mnemonic and the width of its word, and the word matches
it (R61). -/
def RowMatch.Statement (i : Instr) : Prop :=
  ∃ row ∈ commandRows ++ requestRows,
    row.mnemonic = i.mnemonic ∧ row.width = (encode i).word.1 ∧ row.matches (encode i).word.2 = true

theorem RowMatch.clearDisplay : RowMatch.Statement .clearDisplay :=
  ⟨⟨"CLEAR_DISPLAY", 8, 0x01, 0xFF⟩, by decide, rfl, rfl, by decide⟩

theorem RowMatch.returnHome : RowMatch.Statement .returnHome :=
  ⟨⟨"RETURN_HOME", 8, 0x02, 0xFF⟩, by decide, rfl, rfl, by decide⟩

theorem RowMatch.entryModeSet (a b : Bool) : RowMatch.Statement (.entryModeSet a b) :=
  ⟨⟨"ENTRY_MODE_SET", 16, 0x0400, 0xFFFC⟩, by decide, rfl, rfl, by revert a b; decide⟩

theorem RowMatch.displayOnOffCtl (a b c : Bool) : RowMatch.Statement (.displayOnOffCtl a b c) :=
  ⟨⟨"DISPLAY_ON_OFF_CTL", 16, 0x0800, 0xFFF8⟩, by decide, rfl, rfl, by revert a b c; decide⟩

theorem RowMatch.cursorOrDisplayShift (a b : Bool) : RowMatch.Statement (.cursorOrDisplayShift a b) :=
  ⟨⟨"CURSOR_OR_DISPLAY_SHIFT", 16, 0x1000, 0xFFF3⟩, by decide, rfl, rfl, by revert a b; decide⟩

theorem RowMatch.functionSet (a b c : Bool) : RowMatch.Statement (.functionSet a b c) :=
  ⟨⟨"FUNCTION_SET", 16, 0x2000, 0xFFE3⟩, by decide, rfl, rfl, by revert a b c; decide⟩

theorem RowMatch.setCgramAddress (a : BitVec 5) : RowMatch.Statement (.setCgramAddress a) :=
  ⟨⟨"SET_CGRAM_ADDRESS", 16, 0x4000, 0xFFE0⟩, by decide, rfl, rfl, by revert a; decide⟩

theorem RowMatch.setDdramAddress (a : BitVec 6) : RowMatch.Statement (.setDdramAddress a) :=
  ⟨⟨"SET_DDRAM_ADDRESS", 16, 0x8000, 0xFFC0⟩, by decide, rfl, rfl, by revert a; decide⟩

theorem RowMatch.attach (h : Handle) : RowMatch.Statement (.attach h) :=
  ⟨⟨"ATTACH", 4, 0x0, 0xF⟩, by decide, rfl, rfl, show TableRow.matches _ 0x0 = true by decide⟩

theorem RowMatch.detach : RowMatch.Statement .detach :=
  ⟨⟨"DETACH", 4, 0x1, 0xF⟩, by decide, rfl, rfl, rfl⟩

theorem RowMatch.openSession : RowMatch.Statement .openSession :=
  ⟨⟨"OPEN_SESSION", 4, 0x2, 0xF⟩, by decide, rfl, rfl, rfl⟩

theorem RowMatch.closeSession : RowMatch.Statement .closeSession :=
  ⟨⟨"CLOSE_SESSION", 4, 0x3, 0xF⟩, by decide, rfl, rfl, rfl⟩

theorem RowMatch.transact (kind : Kind) (sel : Chip) (reg : Byte) (value : WriteValue) :
    RowMatch.Statement (.transact kind sel reg value) :=
  ⟨⟨"TRANSACT", 4, 0x4, 0xF⟩, by decide, rfl, rfl, show TableRow.matches _ 0x4 = true by decide⟩

theorem RowMatch.sendCmd (tag : Tag) (payload : Byte) : RowMatch.Statement (.sendCmd tag payload) :=
  ⟨⟨"SEND_CMD", 4, 0x5, 0xF⟩, by decide, rfl, rfl, show TableRow.matches _ 0x5 = true by decide⟩

end Sys2Proof.Laws
end

