-- ==== Sys2Proof/Tests/Slice0.lean ====
section
/-! SUPPORT. The model's own tests: the checks of WellFormed refuse ill-formed terms, words written out from
spec/30_encoding.md decode to what they stand for, single steps with the results of spec/95_test_vectors.md, and, for
every statement with hypotheses, a state and operands that meet them. -/

namespace Sys2Proof.Tests

open Sys2Proof.Machine Sys2Proof.Expected

/-! ## Helpers -/

/-- The state of an outcome, so that outcomes can be compared. -/
def stateOf : StepOutcome → Option State
  | .next s => some s
  | .fault _ | .refused _ => none

/-- Why an outcome is a refusal. -/
def refusalOf : StepOutcome → Option Refusal
  | .refused why => some why
  | .next _ | .fault _ => none

/-- A bus handle: the one every Handle type has. -/
def h0 : Handle := .first

/-- A transport status code: the one with all bits zero. -/
def c0 : BusCode := ⟨0#Config.wcode⟩

/-- A detached, closed LCDSEQ with two client ports and a concrete ADDR. -/
def detached : State where
  dev := none
  held := false
  tlock := .free
  addr := 0x3E#7
  flights := []
  nclient := 2
  port := .lifecycle
  events := []
  responder := .ideal []
  draws := 1
  outputs := []

/-- An attached LCDSEQ with an open session, client 0 being served. -/
def opened : State :=
  { detached with dev := some h0, held := true, port := .client 0 }

/-- The same, with client 1 holding TLOCK: its TRANSACT has transferred and is to release. -/
def busy : State :=
  { opened with
    tlock := .held
    addr := 0x62#7
    flights := [(.client 1, ⟨.transact .read .backlight 0x04#8 0#10, .xact 0 (.release (.okRead 0x7F#8))⟩)] }

/-! ## WellFormed refuses ill-formed terms -/

theorem test_ill_raw_reserved_bit : rawWellFormed 2#3 0x04#8 = false := by decide

theorem test_ill_raw_payload_on_clear : rawWellFormed 0#3 0x01#8 = false := by decide

theorem test_well_raw : rawWellFormed 7#3 0x3F#8 = true := by decide

theorem test_ill_value : valueInRange 0x100#10 = false := by decide

theorem test_ill_instr_send : (Instr.sendCmd 6#3 0x20#8).wellFormed = false := by decide

theorem test_ill_instr_write : (Instr.transact .write .text 0x40#8 0x3FF#10).wellFormed = false := by decide

theorem test_wide_read_is_well : (Instr.transact .read .text 0x40#8 0x3FF#10).wellFormed = true := by decide

theorem test_ill_record_op : ({ op := 0x6#4 } : RequestRecord).isRequestOn (.client 0) = false := by decide

theorem test_ill_record_port : ({ op := 0x1#4 } : RequestRecord).isRequestOn (.client 0) = false := by decide

theorem test_ill_record_codec_port : ({ op := 0x5#4 } : RequestRecord).isRequestOn .enc = false := by decide

/-! ## Words, written out from R46, R48, R51 and R56 -/

theorem test_word_clearDisplay : decodeTableWord 8 0b00000001 = some .clearDisplay := by decide

theorem test_word_returnHome : decodeTableWord 8 0b00000010 = some .returnHome := by decide

theorem test_word_entryModeSet : decodeTableWord 16 0b0000010000000010 = some (.entryModeSet false true) := by decide

theorem test_word_displayOnOffCtl :
    decodeTableWord 16 0b0000100000000101 = some (.displayOnOffCtl true false true) := by decide

theorem test_word_cursorOrDisplayShift :
    decodeTableWord 16 0b0001000000000100 = some (.cursorOrDisplayShift true false) := by decide

theorem test_word_functionSet : decodeTableWord 16 0b0010000000011000 = some (.functionSet false true true) := by decide

theorem test_word_setCgramAddress : decodeTableWord 16 0b0100000000010010 = some (.setCgramAddress 0b10010#5) := by
  decide

theorem test_word_setDdramAddress : decodeTableWord 16 0b1000000000100001 = some (.setDdramAddress 0b100001#6) := by
  decide

theorem test_word_attach : decodeTableWord 4 0b0000 = some (.attach .first) := by decide

theorem test_word_detach : decodeTableWord 4 0b0001 = some .detach := by decide

theorem test_word_openSession : decodeTableWord 4 0b0010 = some .openSession := by decide

theorem test_word_closeSession : decodeTableWord 4 0b0011 = some .closeSession := by decide

theorem test_word_transact : decodeTableWord 4 0b0100 = some (.transact .read .text 0#8 0#10) := by decide

theorem test_word_sendCmd : decodeTableWord 4 0b0101 = some (.sendCmd 0#3 0#8) := by decide

/-- R56: every signal of a TRANSACT record reaches its operand. -/
theorem test_record_transact :
    decodeRequest (.client 3) { op := 0x4#4, kind := 1#1, sel := 1#1, reg := 0x06#8, value := 0x055#10 } =
      .ok (.transact .write .backlight 0x06#8 0x055#10) := by decide

/-- 95_test_vectors.md 2.3: opcode before parameter. -/
theorem test_unknown_before_reserved : decodeRaw 0x24#8 (some 0xFF#8) = .error .unknownOpcode := by decide

theorem test_multibit_not_coerced : decodeRaw 0x03#8 none = .error .unknownOpcode := by decide

theorem test_reserved_low_bits : decodeRaw 0x20#8 (some 0x1B#8) = .error .reservedBitSet := by decide

theorem test_reserved_cgram_32 : decodeRaw 0x40#8 (some 0x20#8) = .error .reservedBitSet := by decide

theorem test_zero_parameter_of_clear : decodeRaw 0x01#8 (some 0x00#8) = .ok (0#3, 0x00#8) := by decide

theorem test_nonzero_parameter_of_home : decodeRaw 0x02#8 (some 0x80#8) = .error .reservedBitSet := by decide

/-- 95_test_vectors.md P6: the whole stream. -/
theorem test_stream_P6 :
    decodeStream [0x20#8, 0x18#8, 0x08#8, 0x05#8, 0x01#8, 0x02#8, 0x10#8, 0x0C#8, 0x80#8, 0x28#8, 0x40#8, 0x09#8,
        0x04#8, 0x07#8, 0x06#8] =
      [.ok (.functionSet false true true), .ok (.displayOnOffCtl true false true), .ok .clearDisplay, .ok .returnHome,
        .ok (.cursorOrDisplayShift true true), .ok (.setDdramAddress 0x28#6), .ok (.setCgramAddress 9#5),
        .error .reservedBitSet, .error .unknownOpcode] := by decide

/-- The same stream, cut at `04 07`: two bytes, whatever the second is. -/
theorem test_cut_reserved : decodeBytes [0x04#8, 0x07#8, 0x06#8] = .ok (.error .reservedBitSet, [0x06#8]) := by decide

/-- 95_test_vectors.md 2.2. -/
theorem test_encode_ill_formed : encodeRaw 6#3 0x20#8 = ⟨0x40#8, true, 0x00#8⟩ := by decide

/-- R59: `bus_kind` is 0 for R and 1 for W. -/
theorem test_bus_kind :
    ((BusOp.read 0x62#7 0x04#8).signals 0x00#8).kind = 0b0#1 ∧
      ((BusOp.write 0x62#7 0x04#8 0xFF#8).signals 0x00#8).kind = 0b1#1 := by decide

/-- R59: `log_step` of the sixth initialisation write, 95_test_vectors.md 2.8. -/
theorem test_log_step : initLog (logStep 5) 0x05#8 (.fail c0) = [.log 0b110#3 0x05#8 c0] := by decide

/-! ## Single steps, 95_test_vectors.md -/

/-- The outputs of one step with one event. -/
def outputsOf (ev : Event) (s : State) : Option (List Output) :=
  (stateOf (step { s with events := [ev] })).map (·.outputs)

/-- E6. -/
theorem test_enc_entryModeSet :
    outputsOf (.enc 2#3 0x01#8) detached = some [.enc ⟨0x04#8, true, 0x01#8⟩] := by decide

/-- E7. -/
theorem test_enc_functionSet :
    outputsOf (.enc 5#3 0x18#8) detached = some [.enc ⟨0x20#8, true, 0x18#8⟩] := by decide

/-- 2.2. -/
theorem test_enc_clearDisplay_payload_dropped :
    outputsOf (.enc 0#3 0xFF#8) detached = some [.enc ⟨0x01#8, false, 0x00#8⟩] := by decide

/-- 2.3. -/
theorem test_dec_displayOnOffCtl :
    outputsOf (.dec 0x08#8 (some 0x05#8)) detached = some [.dec (.ok 3#3 0x05#8)] := by decide

theorem test_dec_setDdramAddress :
    outputsOf (.dec 0x80#8 (some 0x3F#8)) detached = some [.dec (.ok 7#3 0x3F#8)] := by decide

theorem test_dec_unknown : outputsOf (.dec 0x38#8 (some 0x00#8)) detached = some [.dec .unknownOpcode] := by decide

theorem test_dec_reserved : outputsOf (.dec 0x10#8 (some 0x0D#8)) detached = some [.dec .reservedBitSet] := by decide

/-- P1: the six writes in order. -/
theorem test_attach :
    outputsOf (.run .lifecycle { op := 0x0#4, handle := h0 }) detached =
      some [.bus h0 (.write 0x62#7 0x00#8 0x00#8) .okWrite, .bus h0 (.write 0x62#7 0x01#8 0x00#8) .okWrite,
        .bus h0 (.write 0x62#7 0x02#8 0x7F#8) .okWrite, .bus h0 (.write 0x62#7 0x03#8 0x7F#8) .okWrite,
        .bus h0 (.write 0x62#7 0x04#8 0x7F#8) .okWrite, .bus h0 (.write 0x62#7 0x05#8 0xAA#8) .okWrite,
        .response .lifecycle .ok] := by rfl

/-- P1: the ideal responder's contents at the end, and DEV. -/
theorem test_attach_state :
    (stateOf (exec (.attach h0) detached)).map (fun s => (s.dev, s.held, s.tlock, s.addr, s.responder)) =
      some (some h0, false, .free, 0x62#7,
        .ideal [(0x6200, 0x00#8), (0x6201, 0x00#8), (0x6202, 0x7F#8), (0x6203, 0x7F#8), (0x6204, 0x7F#8),
          (0x6205, 0xAA#8)]) := by decide +kernel

/-- 2.7. -/
theorem test_detach :
    (stateOf (exec .detach { opened with port := .lifecycle })).map (fun s => (s.dev, s.held, s.outputs)) =
      some (none, false, [.response .lifecycle .ok]) := by decide

theorem test_open_absent :
    (stateOf (exec .openSession { detached with port := .client 0 })).map (fun s => (s.held, s.outputs)) =
      some (false, [.response (.client 0) .deviceNotReady]) := by decide

theorem test_open_busy :
    (stateOf (exec .openSession opened)).map (fun s => (s.held, s.outputs)) =
      some (true, [.response (.client 0) .deviceBusy]) := by decide

theorem test_close :
    (stateOf (exec .closeSession opened)).map (fun s => (s.dev, s.held)) = some (some h0, false) := by decide

/-- 2.6: a value above 255 is truncated. -/
theorem test_transact_truncates :
    outputsOf (.run (.client 0) { op := 0x4#4, kind := 1#1, sel := 1#1, reg := 0x03#8, value := 0x17F#10 }) opened =
      some [.bus h0 (.write 0x62#7 0x03#8 0x7F#8) .okWrite, .response (.client 0) .ok] := by decide

/-- 2.6: a failed read frees the lock and leaves the session open. -/
theorem test_transact_read_fails :
    (stateOf (exec (.transact .read .backlight 0x00#8 0#10) { opened with responder := .blackBox [.fail c0] })).map
        (fun s => (s.held, s.tlock, s.addr, s.outputs)) =
      some (true, .free, 0x62#7,
        [.bus h0 (.read 0x62#7 0x00#8) (.fail c0), .response (.client 0) (.busError c0)]) := by decide

/-- 2.9: the parameter write fails, the opcode byte stays written. -/
theorem test_functionSet_parameter_fails :
    outputsOf (.cmd 0 0x20#8 (some 0x18#8)) { opened with responder := .blackBox [.ok 0#8, .fail c0] } =
      some [.bus h0 (.write 0x3E#7 0x80#8 0x20#8) .okWrite, .bus h0 (.write 0x3E#7 0x80#8 0x18#8) (.fail c0),
        .response (.client 0) (.busError c0)] := by decide

/-- 2.9: the opcode write fails, the parameter write is not issued. -/
theorem test_sendCmd_opcode_fails :
    outputsOf (.run (.client 0) { op := 0x5#4, tag := 5#3, payload := 0x18#8 })
        { opened with responder := .blackBox [.fail c0] } =
      some [.bus h0 (.write 0x3E#7 0x80#8 0x20#8) (.fail c0), .response (.client 0) (.busError c0)] := by decide

/-- 2.9: an ill-formed raw Command is masked. -/
theorem test_sendCmd_masks :
    outputsOf (.run (.client 0) { op := 0x5#4, tag := 2#3, payload := 0xFF#8 }) opened =
      some [.bus h0 (.write 0x3E#7 0x80#8 0x04#8) .okWrite, .bus h0 (.write 0x3E#7 0x80#8 0x03#8) .okWrite,
        .response (.client 0) .ok] := by decide

/-- 2.9: one write for a `CMD0` command. -/
theorem test_returnHome_on_client :
    outputsOf (.cmd 0 0x02#8 none) opened =
      some [.bus h0 (.write 0x3E#7 0x80#8 0x02#8) .okWrite, .response (.client 0) .ok] := by decide

/-- 2.5. -/
theorem test_cursorOrDisplayShift_on_client :
    outputsOf (.cmd 0 0x10#8 (some 0x0C#8)) opened =
      some [.bus h0 (.write 0x3E#7 0x80#8 0x10#8) .okWrite, .bus h0 (.write 0x3E#7 0x80#8 0x0C#8) .okWrite,
        .response (.client 0) .ok] := by decide

theorem test_setCgramAddress_on_client :
    outputsOf (.cmd 0 0x40#8 (some 0x00#8)) opened =
      some [.bus h0 (.write 0x3E#7 0x80#8 0x40#8) .okWrite, .bus h0 (.write 0x3E#7 0x80#8 0x00#8) .okWrite,
        .response (.client 0) .ok] := by decide

/-- The first step after reset runs the word placed before it. -/
theorem test_first_step_runs_the_word :
    (stateOf (step (State.reset.withFetchWord 16 0x2018))).map (·.outputs) = some [.dec (.ok 5#3 0x18#8)] := by decide

/-- R55: client port 0 is a port of every machine, so a request runs as the first step after reset. -/
theorem test_first_step_runs_a_request :
    (stateOf (step (State.reset.withFetchWord 4 0x2))).map (·.outputs) =
      some [.response (.client 0) .deviceNotReady] := by decide

/-- R55: a client port that the machine does not have. -/
theorem test_no_such_port :
    refusalOf (step { opened with events := [.run (.client 2) { op := 0x3#4 }] }) = some .notARequest := by decide

/-- U1, U2, U3, U5: refused by name. -/
theorem test_refusals :
    refusalOf (exec (.sendCmd 0#3 0#8) { detached with port := .client 0 }) = some .transferWhileClosed ∧
    refusalOf (exec .closeSession { detached with port := .client 0 }) = some .closeWhileClosed ∧
    refusalOf (exec (.attach h0) { opened with port := .lifecycle }) = some .attachWhileAttached ∧
    refusalOf (step { opened with events := [.run (.client 0) { op := 0xF#4 }] }) = some .notARequest := by decide

/-! ## Witnesses: states and operands that meet the hypotheses of the statements -/

/-! Codec. -/

theorem wit_EncodeGivesOpcodeAndMaskedPayload :
    rawWellFormed 0#3 0x00#8 = true ∧ rawWellFormed 7#3 0x3F#8 = true := by decide

theorem wit_CodecRoundTrip :
    rawWellFormed 5#3 0x1C#8 = true ∧ decodeRaw 0x80#8 (some 0x3F#8) = .ok (7#3, 0x3F#8) ∧
      decodeRaw 0x01#8 (some 0x00#8) = .ok (0#3, 0x00#8) ∧ decodeRaw 0x02#8 none = .ok (1#3, 0x00#8) := by decide

theorem wit_UnknownOpcodeExactlyUnlessOneBit :
    popcount 0x00#8 = 0 ∧ popcount 0x80#8 = 1 ∧ popcount 0x81#8 = 2 ∧ popcount 0xFF#8 = 8 := by decide

theorem wit_MissingParameterIsRefused :
    0x04#8 ∈ [0x04#8, 0x08#8, 0x10#8, 0x20#8, 0x40#8, 0x80#8] ∧
      0x80#8 ∈ [0x04#8, 0x08#8, 0x10#8, 0x20#8, 0x40#8, 0x80#8] := by decide

theorem wit_StreamIsCutByOpcode :
    commandLength 0x02#8 = some 1 ∧ commandLength 0x80#8 = some 2 ∧ commandLength 0x03#8 = none ∧
      (Instr.setCgramAddress 31#5).raw? = some (6#3, 0x1F#8) := by decide

theorem wit_StreamOfCommandsDecodes :
    ∀ i ∈ [Instr.clearDisplay, .setDdramAddress 63#6, .entryModeSet true true], i.raw? ≠ none := by decide

theorem wit_DecPortPutsOutDecode :
    decodeRaw 0x01#8 none = .ok (0#3, 0x00#8) ∧ decodeRaw 0xC0#8 (some 0x00#8) = .error .unknownOpcode ∧
      decodeRaw 0x80#8 (some 0x40#8) = .error .reservedBitSet := by decide

/-! Commands. -/

theorem wit_CommandsOnEncPort : ({ detached with port := .enc } : State).port = .enc := by decide

theorem wit_CommandsOnDecPort : ({ opened with port := .dec } : State).port = .dec := by decide

/-- The hypotheses of SendCmdBytesAreAValidEncoding, OneByteCommandsSendTheirOpcode and
TwoByteCommandsSendOpcodeThenParameter. -/
theorem wit_CommandsSent :
    opened.port = .client 0 ∧ idle (.client 0) opened ∧ opened.held = true ∧ opened.tlock = .free := by decide

theorem wit_NamedCommandIsSendCmd :
    (Instr.displayOnOffCtl true true false).raw? = some (3#3, 0x03#8) ∧ opened.port = .client 0 ∧
      detached.port = .lifecycle := by decide

/-! Requests. -/

/-- The hypotheses of SendCmdResult, with its three clauses at the tags where they meet. -/
theorem wit_SendCmdResult :
    (opened.port = .client 0 ∧ idle (.client 0) opened ∧ opened.held = true ∧ opened.tlock = .free) ∧
    (1#3).toNat < 2 ∧ 2 ≤ (2#3).toNat ∧
    (busy.port = .client 0 ∧ idle (.client 0) busy ∧ busy.held = true ∧ busy.tlock = .held) := by decide

/-- The hypotheses of TransactReadResult, with a read that is answered and one that fails, and a lock that is held. -/
theorem wit_TransactReadResult :
    (opened.port = .client 0 ∧ idle (.client 0) opened ∧ opened.held = true ∧ opened.tlock = .free) ∧
    readAnswer 0x62#7 0x04#8 { opened with responder := .blackBox [.ok 0x7F#8] } = .okRead 0x7F#8 ∧
    readAnswer 0x3E#7 0x80#8 { opened with responder := .blackBox [.fail c0] } = .fail c0 ∧
    (busy.port = .client 0 ∧ idle (.client 0) busy ∧ busy.held = true ∧ busy.tlock = .held) := by decide

theorem wit_TransactWriteResult :
    (opened.port = .client 0 ∧ idle (.client 0) opened ∧ opened.held = true ∧ opened.tlock = .free) ∧
    writeAnswer 0x62#7 0x04#8 0xFF#8 opened = .okWrite ∧
    writeAnswer 0x62#7 0x04#8 0xFF#8 { opened with responder := .blackBox [.fail c0] } = .fail c0 ∧
    (busy.port = .client 0 ∧ idle (.client 0) busy ∧ busy.held = true ∧ busy.tlock = .held) := by decide

/-- The hypotheses of AttachResult, each clause, and of AttachWritesSixWhateverFails. -/
theorem wit_AttachResult :
    (detached.port = .lifecycle ∧ idle .lifecycle detached ∧ detached.dev = none ∧ detached.tlock = .free) ∧
    (let s : State := { busy with port := .lifecycle, dev := none };
      s.port = .lifecycle ∧ idle .lifecycle s ∧ s.dev = none ∧ s.tlock = .held) ∧
    (let s : State := { opened with port := .lifecycle };
      s.port = .lifecycle ∧ idle .lifecycle s ∧ s.dev = some h0) := by decide

/-- The hypotheses of DetachResult, with another request in flight, and its micro-step. -/
theorem wit_DetachResult :
    (let s : State := { opened with port := .lifecycle, flights := [(.client 0, ⟨.openSession, .openS2⟩)] };
      s.port = .lifecycle ∧ idle .lifecycle s ∧ transferInFlight s.flights = false) ∧
    (let s : State := { opened with flights := [(.lifecycle, ⟨.detach, .start⟩)] };
      flightOn .lifecycle s.flights = some ⟨.detach, .start⟩ ∧ transferInFlight s.flights = false) := by decide

theorem wit_OpenSessionResult :
    (opened.port = .client 0 ∧ idle (.client 0) opened ∧ opened.held = true) ∧
    (let s : State := { detached with port := .client 0 };
      s.port = .client 0 ∧ idle (.client 0) s ∧ s.held = false ∧ s.dev = none) ∧
    (let s : State := { opened with held := false };
      s.port = .client 0 ∧ idle (.client 0) s ∧ s.held = false ∧ s.dev = some h0) := by decide

theorem wit_CloseSessionResult :
    (opened.port = .client 0 ∧ idle (.client 0) opened ∧ opened.held = true) ∧
    (let s : State := { opened with held := false };
      s.port = .client 0 ∧ idle (.client 0) s ∧ s.held = false) ∧
    (let s : State := { opened with flights := [(.client 0, ⟨.closeSession, .start⟩)] };
      flightOn (.client 0) s.flights = some ⟨.closeSession, .start⟩ ∧ s.held = true) := by decide

theorem wit_TransfersOnClosedSessionAreRefused :
    let s : State := { detached with port := .client 0 };
    s.port = .client 0 ∧ idle (.client 0) s ∧ s.held = false := by decide

/-- Each clause of BreachesOnPortsAreRefused. -/
theorem wit_BreachesOnPortsAreRefused :
    Request.acceptedOn .detach (.client 0) = false ∧
    (let s : State := { busy with port := .client 1 };
      Request.acceptedOn .openSession s.port = true ∧ s.port.existsIn s.nclient = true ∧
        flightOn s.port s.flights ≠ none) ∧
    (let s : State := { opened with port := .client 2 };
      s.port.existsIn s.nclient = false ∧ s.nclient ≤ 2) ∧
    (let s : State := { busy with port := .lifecycle };
      s.port = .lifecycle ∧ idle .lifecycle s ∧ transferInFlight s.flights = true) ∧
    6 ≤ ({ op := 0x6#4 } : RequestRecord).op.toNat ∧ 6 ≤ ({ op := 0xF#4 } : RequestRecord).op.toNat ∧
    (({ op := 0x1#4 } : RequestRecord).op.toNat < 2 ∧ Port.client 0 ≠ .lifecycle) ∧
    (2 ≤ ({ op := 0x5#4 } : RequestRecord).op.toNat ∧ ({ op := 0x5#4 } : RequestRecord).op.toNat < 6) ∧
    (decodeRequest (.client 1) { op := 0x2#4 } = .ok .openSession ∧ Port.existsIn busy.nclient (.client 1) = true ∧
      flightOn (.client 1) busy.flights ≠ none) ∧
    (decodeRequest .lifecycle { op := 0x1#4 } = .ok .detach ∧ idle .lifecycle busy ∧
      transferInFlight busy.flights = true) := by decide

/-- A port that is no client port, for the clause of BreachesOnPortsAreRefused on operations of client ports. -/
theorem wit_BreachesOnPortsAreRefused_port : ∀ k, Port.lifecycle ≠ .client k := by simp

/-! Micro-steps. -/

/-- A state with one request in flight on port `p`. -/
def flying (p : Port) (r : Request) (m : Micro) (s : State) : State :=
  { s with flights := [(p, ⟨r, m⟩)] }

/-- The hypotheses of TransactionMicroSteps: the last write of an ATTACH, the parameter write of a SEND_CMD and the read
of a TRANSACT, at each phase. -/
theorem wit_TransactionMicroSteps :
    (transfersOf (.attach h0))[5]? = some ⟨.backlight, 0x05#8, .write 0xAA#8⟩ ∧
    (transfersOf (.sendCmd 5#3 0x18#8))[1]? = some ⟨.text, 0x80#8, .write 0x18#8⟩ ∧
    (transfersOf (.transact .read .text 0x80#8 0#10))[0]? = some ⟨.text, 0x80#8, .read⟩ ∧
    (let s := flying .lifecycle (.attach h0) (.xact 5 .acquire) { detached with tlock := .held };
      flightOn .lifecycle s.flights = some ⟨.attach h0, .xact 5 .acquire⟩ ∧ s.tlock = .held) ∧
    (let s := flying (.client 0) (.sendCmd 5#3 0x18#8) (.xact 1 .acquire) opened;
      flightOn (.client 0) s.flights = some ⟨.sendCmd 5#3 0x18#8, .xact 1 .acquire⟩ ∧ s.tlock = .free) ∧
    flightOn (.client 0) (flying (.client 0) (.sendCmd 5#3 0x18#8) (.xact 1 .retarget) opened).flights =
      some ⟨.sendCmd 5#3 0x18#8, .xact 1 .retarget⟩ ∧
    flightOn .lifecycle (flying .lifecycle (.attach h0) (.xact 5 .transfer) detached).flights =
      some ⟨.attach h0, .xact 5 .transfer⟩ ∧
    flightOn (.client 1) busy.flights =
      some ⟨.transact .read .backlight 0x04#8 0#10, .xact 0 (.release (.okRead 0x7F#8))⟩ := by decide

/-- The clauses of T4: a SEND_CMD at its opcode write, of one byte and of two, and at its parameter write; an ATTACH at its
fifth and at its sixth write. -/
theorem wit_TransactionMicroSteps_release :
    (∀ code, BusResp.okWrite ≠ .fail code) ∧ 2 ≤ (2#3).toNat ∧ (1#3).toNat < 2 ∧
    (transfersOf (.sendCmd 1#3 0x00#8))[0]? = some ⟨.text, 0x80#8, .write 0x02#8⟩ ∧
    flightOn (.client 0) (flying (.client 0) (.sendCmd 1#3 0x00#8) (.xact 0 (.release (.fail c0))) opened).flights =
      some ⟨.sendCmd 1#3 0x00#8, .xact 0 (.release (.fail c0))⟩ ∧
    flightOn (.client 0) (flying (.client 0) (.sendCmd 2#3 0x01#8) (.xact 0 (.release .okWrite)) opened).flights =
      some ⟨.sendCmd 2#3 0x01#8, .xact 0 (.release .okWrite)⟩ ∧
    flightOn (.client 0) (flying (.client 0) (.sendCmd 2#3 0x01#8) (.xact 1 (.release .okWrite)) opened).flights =
      some ⟨.sendCmd 2#3 0x01#8, .xact 1 (.release .okWrite)⟩ ∧
    flightOn .lifecycle (flying .lifecycle (.attach h0) (.xact 4 (.release (.fail c0))) detached).flights =
      some ⟨.attach h0, .xact 4 (.release (.fail c0))⟩ ∧
    flightOn .lifecycle (flying .lifecycle (.attach h0) (.xact 5 (.release .okWrite)) detached).flights =
      some ⟨.attach h0, .xact 5 (.release .okWrite)⟩ :=
  ⟨by simp, by decide⟩

theorem wit_OpenSessionMicroSteps :
    (let s := flying (.client 0) .openSession .start opened;
      flightOn (.client 0) s.flights = some ⟨.openSession, .start⟩ ∧ s.held = true) ∧
    (let s := flying (.client 0) .openSession .start detached;
      flightOn (.client 0) s.flights = some ⟨.openSession, .start⟩ ∧ s.held = false) ∧
    (let s := flying (.client 0) .openSession .openS2 { detached with held := true };
      flightOn (.client 0) s.flights = some ⟨.openSession, .openS2⟩ ∧ s.dev = none) ∧
    (let s := flying (.client 0) .openSession .openS2 opened;
      flightOn (.client 0) s.flights = some ⟨.openSession, .openS2⟩ ∧ s.dev = some h0) := by decide

theorem wit_TransientHoldAnswersBusy :
    (0 : Nat) ≠ 1 ∧ idle (.client 0) detached ∧ idle (.client 1) detached ∧ detached.dev = none ∧
      detached.held = false := by decide

theorem wit_ConcurrentOpensGiveOneSession :
    (let s : State := { opened with held := false };
      (0 : Nat) ≠ 1 ∧ idle (.client 0) s ∧ idle (.client 1) s ∧ s.dev = some h0 ∧ s.held = false) ∧
    (let order : List Port := [.client 1, .client 0, .client 1, .client 0];
      (∀ p ∈ order, p = .client 0 ∨ p = .client 1) ∧ 2 ≤ order.count (.client 0) ∧
        2 ≤ order.count (.client 1)) := by decide

theorem wit_SendCmdCanBeInterleaved :
    let s : State := { opened with responder := .blackBox [.ok 0x00#8, .fail c0, .ok 0x00#8] };
    2 ≤ (2#3).toNat ∧ (0 : Nat) ≠ 1 ∧ idle (.client 0) s ∧ idle (.client 1) s ∧ s.held = true ∧ s.tlock = .free ∧
      s.responder = .blackBox [.ok 0x00#8, .fail c0, .ok 0x00#8] ∧ Kind.read = .read ∧ Kind.write = .write := by decide

/-- Each clause of StartAndExposeMicroSteps. -/
theorem wit_StartAndExposeMicroSteps :
    (let s := flying (.client 0) (.sendCmd 0#3 0#8) .start opened;
      flightOn (.client 0) s.flights = some ⟨.sendCmd 0#3 0#8, .start⟩ ∧ s.held = true) ∧
    (let s := flying (.client 0) (.transact .read .text 0#8 0#10) .start detached;
      flightOn (.client 0) s.flights = some ⟨.transact .read .text 0#8 0#10, .start⟩ ∧ s.held = false) ∧
    (let s := flying .lifecycle (.attach h0) .start detached;
      flightOn .lifecycle s.flights = some ⟨.attach h0, .start⟩ ∧ s.dev = none) ∧
    (let s := flying .lifecycle (.attach h0) .start opened;
      flightOn .lifecycle s.flights = some ⟨.attach h0, .start⟩ ∧ s.dev = some h0) ∧
    flightOn .lifecycle (flying .lifecycle (.attach h0) .expose detached).flights =
      some ⟨.attach h0, .expose⟩ := by decide

/-- A transaction in flight that goes on, and one whose index is foreign to its request, which is refused. -/
theorem wit_TransactionsIgnoreTheSession :
    flightOn (.client 1) busy.flights =
      some ⟨.transact .read .backlight 0x04#8 0#10, .xact 0 (.release (.okRead 0x7F#8))⟩ ∧
    stateOf (microStep (.client 1) busy) ≠ none ∧
    (let s := flying (.client 0) .closeSession (.xact 0 .acquire) opened;
      flightOn (.client 0) s.flights = some ⟨.closeSession, .xact 0 .acquire⟩ ∧
        refusalOf (microStep (.client 0) s) = some .noSuchMicroStep) := by decide

/-! Invariants: states with a request inside a transaction, from which a step is taken. -/

/-- A safe state in which client 1 holds TLOCK and is granted its release. -/
theorem wit_TransportInvariantIsKept :
    let s : State := { busy with events := [.grant (.client 1)] };
    TransportInv s ∧ stateOf (step s) ≠ none := by decide

/-- An ATTACH at its third write, granted its transfer. -/
theorem wit_SessionInvariantIsKept :
    let s : State :=
      { flying .lifecycle (.attach h0) (.xact 2 .transfer) { detached with tlock := .held, addr := 0x62#7 } with
        events := [.grant .lifecycle] };
    SessionInv s ∧ (∃ e ∈ s.flights, attaching e.2 = true) ∧ stateOf (step s) ≠ none := by decide

theorem wit_BusAddressesStayLegal :
    let s : State :=
      { flying .lifecycle (.attach h0) (.xact 2 .transfer) { detached with tlock := .held, addr := 0x62#7 } with
        events := [.grant .lifecycle]
        outputs := [.bus h0 (.write 0x62#7 0x00#8 0x00#8) .okWrite] };
    TransportInv s ∧ TraceInv s ∧ stateOf (step s) ≠ none := by decide

theorem wit_SafeIsKept :
    (let s : State := { busy with events := [.grant (.client 1)] };
      Safe s ∧ stateOf (step s) ≠ none) ∧
    (let s : State :=
      { opened with
        responder := .ideal [(0x3E80, 0x01#8), (0x6204, 0x7F#8)]
        events := [.run (.client 0) { op := 0x4#4, kind := 1#1, sel := 1#1, reg := 0x00#8, value := 0x001#10 }] };
      Safe s ∧ stateOf (step s) ≠ none) := by decide

theorem wit_QuietMeansLockFree : Safe opened ∧ quiet opened ∧ opened.held = true := by decide

theorem wit_NoSessionWhileAttaching :
    let s := flying .lifecycle (.attach h0) (.xact 5 .acquire) detached;
    SessionInv s ∧ (∃ e ∈ s.flights, attaching e.2 = true) ∧ (∀ e ∈ s.flights, e.2.micro ≠ .openS2) := by decide

theorem wit_HeldLockIsFreedWithinThreeSteps : TransportInv busy ∧ busy.tlock = .held := by decide

/-- A failed sixth initialisation write, to be released and logged. -/
theorem wit_LogEventsNameTheirStep :
    let s : State :=
      { flying .lifecycle (.attach h0) (.xact 5 (.release (.fail c0))) { detached with tlock := .held } with
        events := [.grant .lifecycle]
        outputs := [.log 1#3 0x00#8 c0] };
    LogInv s ∧ (stateOf (step s)).map (·.outputs) = some [.log 1#3 0x00#8 c0, .log 6#3 0x05#8 c0] := by decide

theorem wit_WellFormedFlightsAlwaysHaveAMicroStep : FlightsWf busy := by decide

/-- The hypothesis of OutputsOnlyGrow and of NclientIsAParameter. -/
theorem wit_OutputsOnlyGrow : stateOf (step { busy with events := [.grant (.client 1)] }) ≠ none := by decide

/-- An instruction that changes neither DEV nor `held`, one that changes DEV, one that changes `held`. -/
theorem wit_DevAndSessionWriters :
    stateOf (exec (.sendCmd 0#3 0#8) opened) ≠ none ∧ stateOf (exec (.attach h0) detached) ≠ none ∧
      stateOf (exec .closeSession opened) ≠ none := by decide

theorem wit_DevAndSessionWritersByMicroStep :
    (stateOf (microStep .lifecycle (flying .lifecycle (.attach h0) .expose detached))).map (·.dev) ≠
      some detached.dev ∧
    (stateOf (microStep (.client 0) (flying (.client 0) .openSession .start detached))).map (·.held) ≠
      some detached.held := by decide

theorem wit_TransactIgnoresWhoAsks :
    idle (.client 0) opened ∧ idle (.client 1) opened ∧ opened.held = true ∧ opened.tlock = .free := by decide

/-- Each clause of StepRunsTheDecodedInstruction. -/
theorem wit_StepRunsTheDecodedInstruction :
    detached.events = [] ∧
    fetch (.enc 7#3 0x3F#8) = .instr .enc (.setDdramAddress 63#6) ∧
    decodeRequest (.client 0) { op := 0x2#4 } = .ok .openSession ∧
    decodeCommand 0x40#8 (some 0x1F#8) = .ok (.setCgramAddress 31#5) := by decide

theorem wit_FailedReadReleasesTheLock :
    let s : State := { opened with responder := .blackBox [.fail c0, .ok 0x00#8] };
    idle (.client 0) s ∧ idle (.client 1) s ∧ s.held = true ∧ s.tlock = .free ∧ s.dev = some h0 ∧
      s.responder = .blackBox [.fail c0, .ok 0x00#8] := by decide

theorem wit_OpenBeforeAttachLeavesNothingHeld :
    idle (.client 0) detached ∧ idle (.client 1) detached ∧ idle .lifecycle detached ∧ detached.dev = none ∧
      detached.held = false ∧ detached.tlock = .free := by decide

theorem wit_DetachClosesSilently :
    let s : State := { opened with port := .lifecycle };
    s.port = .lifecycle ∧ idle .lifecycle s ∧ idle (.client 0) s ∧ transferInFlight s.flights = false := by decide

theorem wit_IdealResponderReadsBack :
    idle (.client 0) opened ∧ idle (.client 1) opened ∧ opened.held = true ∧ opened.tlock = .free ∧
      opened.responder = .ideal [] := by decide

end Sys2Proof.Tests
end

section
/-! PROOFS. The scope (spec/00_scope.md): outputs only grow, NCLIENT is a parameter, and a step is the execution of
what its event decodes to. -/

namespace Sys2Proof.Machine

/-! ## What every micro-step keeps -/

/-- A micro-step takes back no output (R10, R38). The arms are those that respond, the bus operation of T3, the log
of an ATTACH's write, and those that put nothing out. -/
theorem MicroCase.outputs_prefix {p : Port} {s s' : State} (h : MicroCase p s s') : s.outputs <+: s'.outputs := by
  cases h with
  | detaches | openBusy | openAbsent | openDone | closes | transactEnds | sendEnds | exposes | transfers
  | attachGoesOn => exact List.prefix_append _ _
  | idle | attachStarts | openTakes | transactStarts | sendStarts | waits | acquires | retargets | sendGoesOn =>
    exact List.prefix_rfl

/-- No micro-step changes NCLIENT (R7). -/
theorem MicroCase.nclient_eq {p : Port} {s s' : State} (h : MicroCase p s s') : s'.nclient = s.nclient := by
  cases h <;> rfl

/-! ## What every step keeps -/

theorem step_outputs_prefix {s s' : State} (h : step s = .next s') : s.outputs <+: s'.outputs := by
  refine step_induction (P := fun t => s.outputs <+: t.outputs) h List.prefix_rfl ?serve ?present ?micro ?enc ?dec
  case serve => exact fun _ _ _ ht => ht
  case present => exact fun _ _ _ _ _ ht => ht
  case micro => exact fun _ _ _ hc ht => ht.trans hc.outputs_prefix
  case enc => exact fun _ _ ht => ht.trans (List.prefix_append _ _)
  case dec => exact fun _ _ ht => ht.trans (List.prefix_append _ _)

theorem step_nclient {s s' : State} (h : step s = .next s') : s'.nclient = s.nclient := by
  refine step_induction (P := fun t => t.nclient = s.nclient) h rfl ?serve ?present ?micro ?enc ?dec
  case serve => exact fun _ _ _ ht => ht
  case present => exact fun _ _ _ _ _ ht => ht
  case micro => exact fun _ _ _ hc ht => hc.nclient_eq.trans ht
  case enc => exact fun _ _ ht => ht
  case dec => exact fun _ _ ht => ht

/-- Settles O45, from what every micro-step and every use of the codec ports puts out. -/
theorem outputsOnlyGrow : Obligations.OutputsOnlyGrow := by
  intro s s' h
  obtain ⟨new, hnew⟩ := step_outputs_prefix h
  exact ⟨new, hnew.symm⟩

/-- Settles O60: no step changes NCLIENT, and the reset value is a successor (log 5). -/
theorem nclientIsAParameter : Obligations.NclientIsAParameter :=
  ⟨fun _ _ => step_nclient, Nat.le_add_left 1 Config.moreClients⟩

/-! ## A step by what its event decodes to -/

theorem step_of_no_event {s : State} (h : s.events = []) : step s = .next s := by
  simp only [step, h]

theorem step_of_instr {ev : Event} {rest : List Event} {p : Port} {i : Instr} {s : State} (he : s.events = ev :: rest)
    (hf : fetch ev = .instr p i) : step s = exec i (serve ev rest s) := by
  simp only [step, he, hf]

theorem fetch_run {p : Port} {r : RequestRecord} {q : Request} (h : decodeRequest p r = .ok q) :
    fetch (.run p r) = .instr p q.toInstr := by
  simp only [fetch, h]

theorem fetch_cmd {opcode : Byte} {param : Option Byte} {i : Instr} (k : Nat)
    (h : decodeCommand opcode param = .ok i) : fetch (.cmd k opcode param) = .instr (.client k) i := by
  simp only [fetch, h]

theorem fetch_dec {opcode : Byte} {param : Option Byte} {i : Instr} (h : decodeCommand opcode param = .ok i) :
    fetch (.dec opcode param) = .instr .dec i := by
  simp only [fetch, h]

/-- The port a decoded instruction stands on is its event's. -/
theorem eventPort_of_fetch_instr {ev : Event} {p : Port} {i : Instr} (h : fetch ev = .instr p i) :
    eventPort ev = p := by
  cases ev with
  | run q r =>
    simp only [fetch] at h
    split at h <;> cases h
    rfl
  | issue q r =>
    simp only [fetch] at h
    split at h <;> cases h
  | grant q => cases h
  | cmd k opcode param =>
    simp only [fetch] at h
    split at h <;> cases h
    rfl
  | enc tag payload => cases h; rfl
  | dec opcode param =>
    simp only [fetch] at h
    split at h <;> cases h
    rfl

/-- Settles O50, by the rule of a step whose event decodes to an instruction; the port served is the event's. -/
theorem stepRunsTheDecodedInstruction : Obligations.StepRunsTheDecodedInstruction := by
  refine ⟨fun _ => step_of_no_event, ?_, fun _ _ _ => fetch_run, fun k _ _ _ h => ⟨fetch_cmd k h, fetch_dec h⟩⟩
  intro ev rest p i s he hf
  have hstep : step s = exec i (serve ev rest s) := step_of_instr he hf
  have hserve : serve ev rest s = { s with events := rest, port := p } := by
    rw [serve, eventPort_of_fetch_instr hf]
  rw [hstep, hserve]

end Sys2Proof.Machine
end

section
/-! PROOFS. The state (spec/10_state.md): the invariants of R20, R21 and R24, kept by every micro-step and so by every
step. -/

namespace Sys2Proof.Machine

variable {p : Port} {r : Request} {m m' : Micro} {f : Flight} {s s' : State}

/-! ## The list of flights -/

/-- In canonical form a set exchanges the flight of its port and keeps the others. -/
theorem mem_setFlight_iff {fs : List (Port × Flight)} {e : Port × Flight} (hs : flightsSorted fs = true) :
    e ∈ setFlight p f fs ↔ e = (p, f) ∨ (e ∈ fs ∧ e.1 ≠ p) := by
  constructor
  · intro he
    by_cases hp : e.1 = p
    · exact .inl (eq_of_mem_of_flightOn (flightsSorted_setFlight hs) (flightOn_setFlight_same p f fs) he hp)
    · rcases mem_setFlight he with rfl | he
      · exact absurd rfl hp
      · exact .inr ⟨he, hp⟩
  · rintro (rfl | h)
    · exact mem_of_flightOn (flightOn_setFlight_same p f fs)
    · have hc : e ∈ clearFlight p (setFlight p f fs) := by
        rw [clearFlight_setFlight]
        exact mem_clearFlight.2 h
      exact (mem_clearFlight.1 hc).1

/-- A micro-step moves the flight of its own port only. -/
theorem MicroCase.others_eq (h : MicroCase p s s') : clearFlight p s'.flights = clearFlight p s.flights := by
  have hclear : clearFlight p (clearFlight p s.flights) = clearFlight p s.flights :=
    clearFlight_of_idle flightOn_clearFlight_same
  cases h with
  | idle | waits => rfl
  | detaches | openBusy | openAbsent | openDone | closes | transactEnds | sendEnds | exposes => exact hclear
  | attachStarts | openTakes | transactStarts | sendStarts | acquires | retargets | transfers | attachGoesOn
  | sendGoesOn => exact clearFlight_setFlight p _ _

/-! ## FlightsWf -/

theorem microFits_xact {n : Nat} {t : Transfer} (ph : Phase) (ht : (transfersOf r)[n]? = some t) :
    microFits r (.xact n ph) = true :=
  decide_eq_true (List.getElem?_eq_some_iff.1 ht).1

theorem transfersOf_sendCmd_length (tag : Tag) (payload : Byte) :
    (transfersOf (.sendCmd tag payload)).length = (wire tag payload).length :=
  List.length_map _

/-- A request that uses the transport has a first transaction. -/
theorem microFits_first (ph : Phase) (hr : usesTransport r = true) : microFits r (.xact 0 ph) = true := by
  cases r with
  | attach hd => rfl
  | transact kind sel reg value => cases kind <;> rfl
  | sendCmd tag payload =>
    exact decide_eq_true (show 0 < (transfersOf (.sendCmd tag payload)).length from Nat.succ_pos _)
  | detach | openSession | closeSession => cases hr

theorem FlightsWf.of_flightOn (h : FlightsWf s) (hf : flightOn p s.flights = some f) :
    p.existsIn s.nclient = true ∧ f.req.acceptedOn p = true ∧ microFits f.req f.micro = true :=
  h.2 _ (mem_of_flightOn hf)

theorem FlightsWf.present (h : FlightsWf s) (ha : r.acceptedOn p = true) (hx : p.existsIn s.nclient = true)
    (hm : microFits r m = true) : FlightsWf (advance p r m s) := by
  refine ⟨flightsSorted_setFlight h.1, fun e he => ?_⟩
  rcases mem_setFlight he with rfl | he
  · exact ⟨hx, ha, hm⟩
  · exact h.2 e he

theorem FlightsWf.move (h : FlightsWf s) (hf : flightOn p s.flights = some ⟨r, m⟩) (hm : microFits r m' = true) :
    FlightsWf (advance p r m' s) := by
  obtain ⟨hx, ha, -⟩ := h.of_flightOn hf
  exact h.present ha hx hm

theorem FlightsWf.clear (h : FlightsWf s) : FlightsWf { s with flights := clearFlight p s.flights } :=
  ⟨flightsSorted_clearFlight h.1, fun e he => h.2 e (mem_clearFlight.1 he).1⟩

theorem MicroCase.flightsWf (h : MicroCase p s s') (hwf : FlightsWf s) : FlightsWf s' := by
  cases h with
  | idle | waits => exact hwf
  | attachStarts hd hf | transactStarts _ _ _ _ hf | sendStarts _ _ hf => exact hwf.move hf (microFits_first _ rfl)
  | openTakes hf => exact hwf.move hf rfl
  | acquires r n t hf ht => exact hwf.move hf (microFits_xact _ ht)
  | retargets r n t hf ht => exact hwf.move hf (microFits_xact _ ht)
  | transfers r n t hf ht => exact hwf.move hf (microFits_xact _ ht)
  | attachGoesOn hd n t resp hf =>
    refine hwf.move hf ?_
    split
    · exact decide_eq_true ‹_›
    · rfl
  | sendGoesOn tag payload n t resp hf ht hlt =>
    exact hwf.move hf (decide_eq_true (transfersOf_sendCmd_length tag payload ▸ hlt))
  | detaches | openBusy | openAbsent | openDone | closes | transactEnds | sendEnds | exposes => exact hwf.clear

/-! ## TLOCK, R20 and I2 of R24 -/

/-- The number of lock holders LockInv asks for. -/
def TLock.holders : TLock → Nat
  | .free => 0
  | .held => 1

theorem lockInv_iff : LockInv s ↔ s.flights.countP (fun e => holdsLock e.2.micro) = s.tlock.holders := by
  cases h : s.tlock <;> simp [LockInv, TLock.holders, h]

/-- A request that comes holds no lock. -/
theorem LockInv.present (h : LockInv s) (hi : flightOn p s.flights = none) : LockInv (advance p r .start s) :=
  (countP_setFlight_idle (f := ⟨r, .start⟩) (fun e : Port × Flight => holdsLock e.2.micro) hi).trans h

/-- A request that goes from `m` to `m'` keeps the count if TLOCK goes to `l` with it. -/
theorem LockInv.move (h : LockInv s) (hwf : FlightsWf s) (hf : flightOn p s.flights = some ⟨r, m⟩) {l : TLock}
    (hl : s.tlock.holders + (if holdsLock m' then 1 else 0) = l.holders + (if holdsLock m then 1 else 0)) :
    LockInv { advance p r m' s with tlock := l } := by
  rw [lockInv_iff] at h ⊢
  have hc := countP_setFlight (f := ⟨r, m'⟩) (fun e : Port × Flight => holdsLock e.2.micro) hwf.1 hf
  simp only [advance_flights] at hc ⊢
  omega

/-- A request that ends at `m` keeps the count if TLOCK goes to `l` with it. -/
theorem LockInv.clear (h : LockInv s) (hwf : FlightsWf s) (hf : flightOn p s.flights = some ⟨r, m⟩)
    {l : TLock} (hl : s.tlock.holders = l.holders + (if holdsLock m then 1 else 0)) :
    LockInv { s with tlock := l, flights := clearFlight p s.flights } := by
  rw [lockInv_iff] at h ⊢
  have hc := countP_clearFlight (fun e : Port × Flight => holdsLock e.2.micro) hwf.1 hf
  simp only at hc ⊢
  omega

/-- A request between acquire and release finds TLOCK held. -/
theorem LockInv.held_of_holder (h : LockInv s) (hf : flightOn p s.flights = some f) (hm : holdsLock f.micro = true) :
    s.tlock = .held := by
  have hpos : 0 < s.flights.countP fun e => holdsLock e.2.micro :=
    List.countP_pos_iff.2 ⟨_, mem_of_flightOn hf, hm⟩
  rw [lockInv_iff.1 h] at hpos
  cases hl : s.tlock with
  | held => rfl
  | free => simp [hl, TLock.holders] at hpos

/-- Beside the holder of TLOCK there is no second one. -/
theorem LockInv.no_other_holder (h : LockInv s) (hwf : FlightsWf s) (hf : flightOn p s.flights = some f)
    (hm : holdsLock f.micro = true) {e : Port × Flight} (he : e ∈ s.flights) (hp : e.1 ≠ p) :
    holdsLock e.2.micro = false := by
  have hc := countP_clearFlight (fun e : Port × Flight => holdsLock e.2.micro) hwf.1 hf
  rw [lockInv_iff.1 h, h.held_of_holder hf hm] at hc
  have hzero : (clearFlight p s.flights).countP (fun e => holdsLock e.2.micro) = 0 := by
    simpa [hm, TLock.holders] using hc
  simpa using List.countP_eq_zero.1 hzero e (mem_clearFlight.2 ⟨he, hp⟩)

theorem MicroCase.lockInv (h : MicroCase p s s') (hwf : FlightsWf s) (hl : LockInv s) : LockInv s' := by
  cases h with
  | idle | waits => exact hl
  | attachStarts hd hf | transactStarts _ _ _ _ hf | sendStarts _ _ hf | openTakes hf => exact hl.move hwf hf rfl
  | retargets r n t hf | transfers r n t hf => exact hl.move hwf hf rfl
  | acquires r n t hf ht hfree => exact hl.move hwf hf (by simp [hfree, holdsLock, TLock.holders])
  | attachGoesOn hd n t resp hf =>
    have hheld := hl.held_of_holder hf rfl
    exact hl.move hwf hf (by rw [hheld]; split <;> rfl)
  | sendGoesOn tag payload n t resp hf =>
    have hheld := hl.held_of_holder hf rfl
    exact hl.move hwf hf (by rw [hheld]; rfl)
  | transactEnds _ _ _ _ n t resp hf | sendEnds _ _ n t resp _ hf =>
    have hheld := hl.held_of_holder hf rfl
    exact hl.clear hwf hf (by rw [hheld]; rfl)
  | detaches hf | openBusy hf | openAbsent hf | openDone _ hf | closes hf | exposes _ hf => exact hl.clear hwf hf rfl

/-! ## ADDR, R21 -/

/-- A request that has put its chip into ADDR holds TLOCK. -/
theorem holdsLock_of_retargeted {c : Chip} (h : c ∈ retargeted f) : holdsLock f.micro = true := by
  obtain ⟨r, m⟩ := f
  cases m with
  | start | openS2 | expose => cases h
  | xact n ph =>
    cases ph with
    | acquire | retarget => cases h
    | transfer | release => rfl

/-- A request that has put its chip into ADDR uses the transport. -/
theorem usesTransport_of_retargeted {c : Chip} (h : c ∈ retargeted f) : usesTransport f.req = true := by
  obtain ⟨r, m⟩ := f
  cases r with
  | attach | transact | sendCmd => rfl
  | detach | openSession | closeSession =>
    cases m with
    | start | openS2 | expose => cases h
    | xact n ph => cases ph <;> simp [retargeted, transfersOf] at h

theorem AddrInv.move (h : AddrInv s) (hnew : ∀ c ∈ retargeted ⟨r, m'⟩, s.addr = a7Of c) :
    AddrInv (advance p r m' s) := by
  intro e he
  rcases mem_setFlight he with rfl | he
  · exact hnew
  · exact h e he

theorem AddrInv.clear (h : AddrInv s) : AddrInv { s with flights := clearFlight p s.flights } :=
  fun e he => h e (mem_clearFlight.1 he).1

/-- Without a transfer in flight nothing is said of ADDR. -/
theorem addrInv_of_no_transfer (h : transferInFlight s.flights = false) : AddrInv s := by
  intro e he c hc
  have hno := List.any_eq_false.1 h e he
  exact absurd (usesTransport_of_retargeted hc) hno

/-- T2 changes ADDR under no other request: only the holder of TLOCK has one in effect. -/
theorem AddrInv.retarget {n : Nat} {t : Transfer} (hwf : FlightsWf s) (hl : LockInv s)
    (hf : flightOn p s.flights = some ⟨r, .xact n .retarget⟩) (ht : (transfersOf r)[n]? = some t) :
    AddrInv (retargetStep p r n t s) := by
  intro e he c hc
  rcases (mem_setFlight_iff hwf.1).1 he with rfl | ⟨he, hp⟩
  · obtain rfl : t.sel = c := by simpa [retargeted, ht] using hc
    rfl
  · have hno := hl.no_other_holder hwf hf rfl he hp
    simp [holdsLock_of_retargeted hc] at hno

theorem MicroCase.addrInv (h : MicroCase p s s') (hwf : FlightsWf s) (hl : LockInv s) (ha : AddrInv s) :
    AddrInv s' := by
  cases h with
  | idle | waits => exact ha
  | attachStarts | openTakes | transactStarts | sendStarts | acquires | sendGoesOn => exact ha.move nofun
  | attachGoesOn => exact ha.move (by split <;> exact nofun)
  | retargets r n t hf ht => exact .retarget hwf hl hf ht
  | transfers r n t hf => exact ha.move (ha _ (mem_of_flightOn hf))
  | detaches _ hno => exact AddrInv.clear (s := { s with addr := Config.freeAddr s.draws }) (addrInv_of_no_transfer hno)
  | openBusy | openAbsent | openDone | closes | transactEnds | sendEnds | exposes => exact ha.clear

/-! ## The Register Transport's invariant -/

theorem TransportInv.present (h : TransportInv s) (ha : r.acceptedOn p = true) (hi : idle p s) :
    TransportInv (advance p r .start s) := by
  obtain ⟨hwf, hl, haddr⟩ := h
  exact ⟨hwf.present ha hi.1 rfl, hl.present hi.2, haddr.move nofun⟩

theorem MicroCase.transportInv (h : MicroCase p s s') (hs : TransportInv s) : TransportInv s' := by
  obtain ⟨hwf, hl, ha⟩ := hs
  exact ⟨h.flightsWf hwf, h.lockInv hwf hl, h.addrInv hwf hl ha⟩

/-- Settles O35: every step is made of presented requests, micro-steps and uses of the codec ports, and each of these
keeps the invariant. -/
theorem transportInvariantIsKept : Obligations.TransportInvariantIsKept := by
  intro s s' hs h
  refine step_induction (P := TransportInv) h hs ?serve ?present ?micro ?enc ?dec
  case serve => exact fun _ _ _ ht => ht
  case present => exact fun _ _ _ ha hi ht => ht.present ha hi
  case micro => exact fun _ _ _ hc ht => hc.transportInv ht
  case enc => exact fun _ _ ht => ht
  case dec => exact fun _ _ ht => ht

end Sys2Proof.Machine
end

section
/-! PROOFS. The state (spec/10_state.md): the session and an ATTACH (R24 I1, I3), what is put out (R26, R99), and the
safe states. -/

namespace Sys2Proof.Machine

variable {p : Port} {r : Request} {m m' : Micro} {f : Flight} {s s' : State}

/-! ## A durable session stands on an attached device, I1 of R24 -/

/-- A request that is at none of OPEN_SESSION's own micro-steps may come, move or end: what was open is judged as
before. -/
theorem SessionHeldInv.of_others (h : SessionHeldInv s) (hothers : clearFlight p s'.flights = clearFlight p s.flights)
    (hown : ∀ e ∈ s.flights, e.1 = p → e.2.micro ≠ .openS2) (hheld : s'.held = s.held) (hdev : s'.dev = s.dev) :
    SessionHeldInv s' := by
  intro hopen hno
  rw [hdev]
  refine h (hheld ▸ hopen) fun e he => ?_
  by_cases hp : e.1 = p
  · exact hown e he hp
  · have hkept : e ∈ clearFlight p s'.flights := hothers ▸ mem_clearFlight.2 ⟨he, hp⟩
    exact hno e (mem_clearFlight.1 hkept).1

/-- What a micro-step can mean for the session: nothing, a closed session, an attached device, or an OPEN_SESSION left
between its micro-steps. -/
theorem MicroCase.session_cases (h : MicroCase p s s') :
    (s'.dev = s.dev ∧ s'.held = s.held ∧ ∀ f, flightOn p s.flights = some f → f.micro ≠ .openS2) ∨
      s'.held = false ∨ s'.dev.isSome = true ∨ flightOn p s'.flights = some ⟨.openSession, .openS2⟩ := by
  cases h with
  | detaches | openAbsent | closes => exact .inr (.inl rfl)
  | openDone hd _ hdev => exact .inr (.inr (.inl (by simp [hdev])))
  | exposes => exact .inr (.inr (.inl rfl))
  | openTakes => exact .inr (.inr (.inr (flightOn_setFlight_same _ _ _)))
  | idle hf | attachStarts _ hf | openBusy hf | transactStarts _ _ _ _ hf | sendStarts _ _ hf | waits _ _ _ hf
  | acquires _ _ _ hf | retargets _ _ _ hf | transfers _ _ _ hf | attachGoesOn _ _ _ _ hf
  | transactEnds _ _ _ _ _ _ _ hf | sendEnds _ _ _ _ _ _ hf | sendGoesOn _ _ _ _ _ hf =>
    exact .inl ⟨rfl, rfl, by simp [hf]⟩

theorem MicroCase.sessionHeldInv (h : MicroCase p s s') (hwf : FlightsWf s) (hs : SessionHeldInv s) :
    SessionHeldInv s' := by
  rcases h.session_cases with ⟨hdev, hheld, hown⟩ | hclosed | hattached | hopening
  · refine hs.of_others h.others_eq (fun e he hp => ?_) hheld hdev
    cases hf : flightOn p s.flights with
    | none => exact absurd hp (mem_clearFlight.1 (clearFlight_of_idle hf ▸ he)).2
    | some f => exact eq_of_mem_of_flightOn hwf.1 hf he hp ▸ hown f hf
  · exact fun hopen => by simp [hclosed] at hopen
  · exact fun _ _ => hattached
  · exact fun _ hno => absurd rfl (hno _ (mem_of_flightOn hopening))

/-! ## DEV is absent during an ATTACH, the first half of I3 of R24 -/

/-- Only the lifecycle port carries an ATTACH (R56). -/
theorem FlightsWf.port_of_attaching (h : FlightsWf s) {e : Port × Flight} (he : e ∈ s.flights)
    (ha : attaching e.2 = true) : e.1 = .lifecycle := by
  obtain ⟨q, r, m⟩ := e
  have hacc : r.acceptedOn q = true := (h.2 _ he).2.1
  cases r with
  | attach hd =>
    cases q with
    | lifecycle => rfl
    | client | enc | dec => cases hacc
  | detach | openSession | closeSession | transact | sendCmd => cases ha

/-- At every transaction an ATTACH is running. -/
theorem attaching_xact (r : Request) (n n' : Nat) (ph ph' : Phase) :
    attaching ⟨r, .xact n ph⟩ = attaching ⟨r, .xact n' ph'⟩ := by
  cases r <;> rfl

theorem AttachInv.move (h : AttachInv s) (hnew : attaching ⟨r, m'⟩ = true → s.dev = none) :
    AttachInv (advance p r m' s) := by
  intro e he
  rcases mem_setFlight he with rfl | he
  · exact hnew
  · exact h e he

/-- The flight of `p` is one whose ATTACH, if it is one, is already running. -/
theorem AttachInv.of_flightOn (h : AttachInv s) (hf : flightOn p s.flights = some f) (ha : attaching f = true) :
    s.dev = none :=
  h _ (mem_of_flightOn hf) ha

theorem AttachInv.clear (h : AttachInv s) : AttachInv { s with flights := clearFlight p s.flights } :=
  fun e he => h e (mem_clearFlight.1 he).1

/-- A7 ends the one ATTACH there is: no other finds DEV present. -/
theorem AttachInv.expose {hd : Handle} {d : Option Handle} (hwf : FlightsWf s)
    (hf : flightOn p s.flights = some ⟨.attach hd, .expose⟩) :
    AttachInv { s with dev := d, flights := clearFlight p s.flights } := by
  intro e he ha
  obtain ⟨he, hp⟩ := mem_clearFlight.1 he
  have hpl : p = .lifecycle := hwf.port_of_attaching (mem_of_flightOn hf) rfl
  exact absurd ((hwf.port_of_attaching he ha).trans hpl.symm) hp

theorem MicroCase.attachInv (h : MicroCase p s s') (hwf : FlightsWf s) (hs : AttachInv s) : AttachInv s' := by
  cases h with
  | idle | waits => exact hs
  | attachStarts hd hf habs => exact hs.move fun _ => habs
  | openTakes | transactStarts | sendStarts | sendGoesOn => exact hs.move nofun
  | acquires r n t hf | retargets r n t hf | transfers r n t hf =>
    exact hs.move fun ha => hs.of_flightOn hf (attaching_xact r .. ▸ ha)
  | attachGoesOn hd n t resp hf => exact hs.move fun _ => hs.of_flightOn hf rfl
  | detaches => exact fun _ _ _ => rfl
  | openBusy | openAbsent | openDone | closes | transactEnds | sendEnds => exact hs.clear
  | exposes hd hf => exact .expose hwf hf

/-! ## The Device Session Manager's invariant -/

theorem SessionInv.present (h : SessionInv s) (ha : r.acceptedOn p = true) (hi : idle p s) :
    SessionInv (advance p r .start s) := by
  obtain ⟨hwf, hheld, hatt⟩ := h
  refine ⟨hwf.present ha hi.1 rfl, ?_, hatt.move (by cases r <;> exact nofun)⟩
  refine hheld.of_others (clearFlight_setFlight p _ _) (fun e he hp => ?_) rfl rfl
  exact absurd hp (mem_clearFlight.1 (clearFlight_of_idle hi.2 ▸ he)).2

theorem MicroCase.sessionInv (h : MicroCase p s s') (hs : SessionInv s) : SessionInv s' := by
  obtain ⟨hwf, hheld, hatt⟩ := hs
  exact ⟨h.flightsWf hwf, h.sessionHeldInv hwf hheld, h.attachInv hwf hatt⟩

/-- Settles O36: presenting a request, every micro-step and the codec ports keep the invariant. -/
theorem sessionInvariantIsKept : Obligations.SessionInvariantIsKept := by
  intro s s' hs h
  refine step_induction (P := SessionInv) h hs ?serve ?present ?micro ?enc ?dec
  case serve => exact fun _ _ _ ht => ht
  case present => exact fun _ _ _ ha hi ht => ht.present ha hi
  case micro => exact fun _ _ _ hc ht => hc.sessionInv ht
  case enc => exact fun _ _ ht => ht
  case dec => exact fun _ _ ht => ht

/-- Settles O42: a running ATTACH has DEV absent, and a session held by no half-done OPEN_SESSION would need it
present. -/
theorem noSessionWhileAttaching : Obligations.NoSessionWhileAttaching := by
  rintro s ⟨-, hheld, hatt⟩ ⟨e, he, ha⟩ hno
  have hdev : s.dev = none := hatt e he ha
  refine ⟨hdev, Bool.eq_false_iff.2 fun hopen => ?_⟩
  simpa [hdev] using hheld hopen hno

/-! ## What a micro-step puts out -/

/-- What a micro-step of port `p` in state `s` can put out. -/
inductive NewOutput (p : Port) (s : State) : Output → Prop where
  | response (x : Response) : NewOutput p s (.response p x)
  | bus (h : Handle) (r : Request) (n : Nat) (t : Transfer) (resp : BusResp) :
      flightOn p s.flights = some ⟨r, .xact n .transfer⟩ → (transfersOf r)[n]? = some t →
      NewOutput p s (.bus h (busOpOf s.addr t) resp)
  | log (h : Handle) (n : Nat) (t : Transfer) (code : BusCode) : (transfersOf (.attach h))[n]? = some t →
      NewOutput p s (.log (logStep n) t.reg code)

theorem mem_outputs_append {o : Output} {new : List Output} (h : o ∈ s.outputs ++ new)
    (hnew : ∀ o ∈ new, NewOutput p s o) : o ∈ s.outputs ∨ NewOutput p s o :=
  (List.mem_append.1 h).imp_right (hnew o)

/-- The inversion of the outputs of a micro-step. -/
theorem MicroCase.mem_outputs (h : MicroCase p s s') {o : Output} (ho : o ∈ s'.outputs) :
    o ∈ s.outputs ∨ NewOutput p s o := by
  cases h with
  | idle | attachStarts | openTakes | transactStarts | sendStarts | waits | acquires | retargets | sendGoesOn =>
    exact .inl ho
  | detaches | openBusy | openAbsent | openDone | closes | transactEnds | sendEnds | exposes =>
    exact mem_outputs_append ho fun o hnew => List.mem_singleton.1 hnew ▸ .response _
  | transfers r n t hf ht =>
    exact mem_outputs_append ho fun o hnew => List.mem_singleton.1 hnew ▸ .bus _ r n t _ hf ht
  | attachGoesOn hd n t resp hf ht =>
    refine mem_outputs_append ho fun o hnew => ?_
    rcases initLog_cases (logStep n) t.reg resp with ⟨code, -, hlog⟩ | ⟨-, hlog⟩
    · rw [hlog] at hnew
      exact List.mem_singleton.1 hnew ▸ .log hd n t code ht
    · rw [hlog] at hnew
      cases hnew

/-! ## The addresses on the bus, R26 -/

theorem mem_busTrace {op : BusOp} {outs : List Output} : op ∈ busTrace outs ↔ ∃ h resp, .bus h op resp ∈ outs := by
  simp only [busTrace, List.mem_filterMap]
  constructor
  · rintro ⟨o, ho, hop⟩
    cases o with
    | bus h op' resp => cases hop; exact ⟨h, resp, ho⟩
    | response | log | enc | dec => cases hop
  · rintro ⟨h, resp, ho⟩
    exact ⟨_, ho, rfl⟩

theorem busOpOf_a7 (a : BusAddr) (t : Transfer) : (busOpOf a t).a7 = a := by
  obtain ⟨sel, reg, access⟩ := t
  cases access <;> rfl

theorem a7Of_legal (c : Chip) : a7Of c = 0x3E#7 ∨ a7Of c = 0x62#7 := by
  cases c with
  | text => exact .inl rfl
  | backlight => exact .inr rfl

/-- The bus operation of T3 goes to the chip that the request itself has put into ADDR. -/
theorem MicroCase.traceInv (h : MicroCase p s s') (hs : TransportInv s) (ht : TraceInv s) : TraceInv s' := by
  obtain ⟨-, -, ha⟩ := hs
  intro op hop
  obtain ⟨hd, resp, ho⟩ := mem_busTrace.1 hop
  rcases h.mem_outputs ho with hold | hnew
  · exact ht op (mem_busTrace.2 ⟨hd, resp, hold⟩)
  · cases hnew with
    | bus _ r n t _ hf hx =>
      have haddr : s.addr = a7Of t.sel := ha _ (mem_of_flightOn hf) t.sel (by simp [retargeted, hx])
      rw [busOpOf_a7, haddr]
      exact a7Of_legal t.sel

/-- An output that is no bus operation leaves the bus trace as it is. -/
theorem TraceInv.output (h : TraceInv s) {o : Output} (hno : ∀ hd op resp, o ≠ .bus hd op resp) :
    TraceInv (output o s) := by
  intro op hop
  obtain ⟨hd, resp, ho⟩ := mem_busTrace.1 hop
  rcases List.mem_append.1 ho with hold | hnew
  · exact h op (mem_busTrace.2 ⟨hd, resp, hold⟩)
  · exact absurd (List.mem_singleton.1 hnew).symm (hno hd op resp)

/-! ## The log, R99 -/

theorem MicroCase.logInv (h : MicroCase p s s') (hl : LogInv s) : LogInv s' := by
  intro o ho
  rcases h.mem_outputs ho with hold | hnew
  · exact hl o hold
  · cases hnew with
    | response | bus => rfl
    | log hd n t code ht => exact logEventFits_logStep ht code

theorem LogInv.output (h : LogInv s) {o : Output} (hfits : logEventFits o = true) : LogInv (output o s) := by
  intro o' ho
  rcases List.mem_append.1 ho with hold | hnew
  · exact h o' hold
  · exact List.mem_singleton.1 hnew ▸ hfits

/-! ## The ideal responder, R33 -/

theorem MicroCase.responderWf (h : MicroCase p s s') (hw : responderWf s.responder = true) :
    responderWf s'.responder = true := by
  cases h with
  | transfers => exact responderWf_after _ hw
  | _ => exact hw

/-! ## The safe states -/

theorem Safe.present (h : Safe s) (ha : r.acceptedOn p = true) (hi : idle p s) : Safe (advance p r .start s) := by
  obtain ⟨ht, hs, hrest⟩ := h
  exact ⟨ht.present ha hi, hs.present ha hi, hrest⟩

theorem MicroCase.safe (h : MicroCase p s s') (hs : Safe s) : Safe s' := by
  obtain ⟨ht, hsess, htrace, hlog, hresp⟩ := hs
  exact ⟨h.transportInv ht, h.sessionInv hsess, h.traceInv ht htrace, h.logInv hlog, h.responderWf hresp⟩

/-- A use of a codec port is neither a bus operation nor a log event. -/
theorem Safe.output (h : Safe s) {o : Output} (hno : ∀ hd op resp, o ≠ .bus hd op resp)
    (hfits : logEventFits o = true) : Safe (output o s) := by
  obtain ⟨ht, hsess, htrace, hlog, hresp⟩ := h
  exact ⟨ht, hsess, htrace.output hno, hlog.output hfits, hresp⟩

/-- Settles O38: presenting a request, every micro-step and the codec ports keep each part of `Safe`. -/
theorem safeIsKept : Obligations.SafeIsKept := by
  intro s s' hs h
  refine step_induction (P := Safe) h hs ?serve ?present ?micro ?enc ?dec
  case serve => exact fun _ _ _ ht => ht
  case present => exact fun _ _ _ ha hi ht => ht.present ha hi
  case micro => exact fun _ _ _ hc ht => hc.safe ht
  case enc => exact fun _ _ ht => ht.output nofun rfl
  case dec => exact fun _ _ ht => ht.output nofun rfl

end Sys2Proof.Machine
end

section
/-! PROOFS. The state (spec/10_state.md): which operations write DEV and `held` (R17, R18), which read ADDR (R21) or the
port they stand on (R19), and that no step of a well-formed state lacks a meaning (R22). -/

namespace Sys2Proof.Machine

open Sys2Proof.Expected

variable {p : Port} {r : Request} {n : Nat} {f : Flight} {s s' t : State}

/-! ## What an instruction is on a port -/

theorem exec_toInstr (r : Request) (s : State) : exec r.toInstr s = runRequest r s := by
  cases r <;> rfl

/-- DECODE does not look at the state: on the same bytes it always answers, or never. -/
theorem decPort_cases (opcode : Byte) (param : Option Byte) :
    (∃ out, ∀ s, decPort opcode param s = .next (output (.dec out) s)) ∨
      ∀ s, decPort opcode param s = .refused .missingParameter := by
  cases h : decodeRaw opcode param with
  | ok c => exact .inl ⟨.ok c.1 c.2, fun s => by simp only [decPort, h]⟩
  | error e =>
    cases e with
    | unknownOpcode => exact .inl ⟨.unknownOpcode, fun s => by simp only [decPort, h]⟩
    | reservedBitSet => exact .inl ⟨.reservedBitSet, fun s => by simp only [decPort, h]⟩
    | missingParameter | notARequest | endOfStream => exact .inr fun s => by simp only [decPort, h]

/-- What an instruction is on port `p`, the same in every state that serves `p`: one output of a codec port, a refusal,
or the running of a request, which is the instruction itself or the SEND_CMD of a command. -/
inductive ExecForm (p : Port) (i : Instr) : Prop where
  | puts (out : Output) : (∀ s, s.port = p → exec i s = .next (output out s)) → ExecForm p i
  | refuses (why : Refusal) : why ≠ .noSuchMicroStep → (∀ s, s.port = p → exec i s = .refused why) → ExecForm p i
  | requests (r : Request) : (∀ s, s.port = p → exec i s = runRequest r s) →
      (i = r.toInstr ∨ ∃ tag payload, r = .sendCmd tag payload) → ExecForm p i

/-- A command, by the port it stands on (R60, log 14). -/
theorem ExecForm.of_raw {i : Instr} {tag : Tag} {payload : Byte} (p : Port) (h : i.raw? = some (tag, payload)) :
    ExecForm p i := by
  have hexec : ∀ s, s.port = p → exec i s = runCommand tag payload s := fun s _ => exec_of_raw h s
  cases p with
  | lifecycle =>
    exact .refuses .notARequest (by decide) fun s hp => by simp only [hexec s hp, runCommand, hp]
  | client k =>
    exact .requests (.sendCmd tag payload) (fun s hp => by simp only [hexec s hp, runCommand, hp]) (.inr ⟨_, _, rfl⟩)
  | enc => exact .puts (.enc (encodeRaw tag payload)) fun s hp => by simp only [hexec s hp, runCommand, hp, encPort]
  | dec =>
    rcases decPort_cases (encodeRaw tag payload).opcode (encodeRaw tag payload).param? with ⟨out, hout⟩ | href
    · exact .puts (.dec out) fun s hp => by simp only [hexec s hp, runCommand, hp, hout]
    · exact .refuses .missingParameter (by decide) fun s hp => by simp only [hexec s hp, runCommand, hp, href]

/-- A request runs on any port; `accept` looks at the port. -/
theorem ExecForm.of_request (p : Port) (r : Request) : ExecForm p r.toInstr :=
  .requests r (fun s _ => exec_toInstr r s) (.inl rfl)

theorem exec_form (p : Port) (i : Instr) : ExecForm p i := by
  cases i with
  | attach h => exact .of_request p (.attach h)
  | detach => exact .of_request p .detach
  | openSession => exact .of_request p .openSession
  | closeSession => exact .of_request p .closeSession
  | transact kind sel reg value => exact .of_request p (.transact kind sel reg value)
  | sendCmd tag payload => exact .of_request p (.sendCmd tag payload)
  | clearDisplay | returnHome | entryModeSet | displayOnOffCtl | cursorOrDisplayShift | functionSet
  | setCgramAddress | setDdramAddress => exact .of_raw p rfl

/-! ## The writers of DEV and `held`, R17 and R18 -/

/-- DEV is written by A7 of ATTACH and by DETACH. -/
theorem MicroCase.dev_writer (h : MicroCase p s s') :
    s'.dev = s.dev ∨ ∃ f, flightOn p s.flights = some f ∧ ((∃ hd, f.req = .attach hd) ∨ f.req = .detach) := by
  cases h with
  | exposes hd hf => exact .inr ⟨_, hf, .inl ⟨hd, rfl⟩⟩
  | detaches hf => exact .inr ⟨_, hf, .inr rfl⟩
  | _ => exact .inl rfl

/-- `held` is written by S1 and S2 of OPEN_SESSION, by CLOSE_SESSION and by DETACH. -/
theorem MicroCase.held_writer (h : MicroCase p s s') :
    s'.held = s.held ∨ ∃ f, flightOn p s.flights = some f ∧
      (f.req = .openSession ∨ f.req = .closeSession ∨ f.req = .detach) := by
  cases h with
  | openTakes hf | openAbsent hf => exact .inr ⟨_, hf, .inl rfl⟩
  | closes hf => exact .inr ⟨_, hf, .inr (.inl rfl)⟩
  | detaches hf => exact .inr ⟨_, hf, .inr (.inr rfl)⟩
  | _ => exact .inl rfl

/-- Settles O47, by the two inversions above. -/
theorem devAndSessionWritersByMicroStep : Obligations.DevAndSessionWritersByMicroStep := by
  intro p s t h
  have hc : MicroCase p s t := microStep_cases h
  exact ⟨fun hne => hc.dev_writer.resolve_left hne, fun hne => hc.held_writer.resolve_left hne⟩

/-- A request keeps its operands until it ends. -/
theorem MicroCase.req_eq (h : MicroCase p s s') (hr : ∀ f, flightOn p s.flights = some f → f.req = r) :
    ∀ f, flightOn p s'.flights = some f → f.req = r := by
  cases h with
  | idle | waits => exact hr
  | detaches | openBusy | openAbsent | openDone | closes | transactEnds | sendEnds | exposes => simp
  | attachStarts _ hf | openTakes hf | transactStarts _ _ _ _ hf | sendStarts _ _ hf | acquires _ _ _ hf
  | retargets _ _ _ hf | transfers _ _ _ hf | attachGoesOn _ _ _ _ hf | sendGoesOn _ _ _ _ _ hf =>
    simpa using hr _ hf

/-- What holds of a request just presented and is kept by its own micro-steps holds after its run. -/
theorem runRequest_induction {P : State → Prop} (h : runRequest r s = .next t) (hs : P (advance s.port r .start s))
    (hmicro : ∀ u u', MicroCase s.port u u' → (∀ f, flightOn s.port u.flights = some f → f.req = r) → P u → P u') :
    P t := by
  obtain ⟨s₁, h₁, h₂⟩ := thenStep_eq_next h
  obtain ⟨rfl, -⟩ := accept_eq_next h₁
  have hdrive : ∀ k u, (∀ f, flightOn s.port u.flights = some f → f.req = r) → P u →
      drive k s.port u = .next t → P t := by
    intro k
    induction k with
    | zero => intro u _ hu h; cases h; exact hu
    | succ k ih =>
      intro u hr hu h
      obtain ⟨u', h₁, h₂⟩ := thenStep_eq_next (drive_succ k _ u ▸ h)
      have hc := microStep_cases h₁
      exact ih u' (hc.req_eq hr) (hmicro u u' hc hr hu) h₂
  exact hdrive _ _ (by simp) hs h₂

theorem runRequest_dev (h : runRequest r s = .next t) (ha : ∀ hd, r ≠ .attach hd) (hd : r ≠ .detach) :
    t.dev = s.dev := by
  refine runRequest_induction (P := fun u => u.dev = s.dev) h rfl fun u u' hc hr hu => ?_
  rcases hc.dev_writer with heq | ⟨f, hf, ⟨hd', hw⟩ | hw⟩
  · exact heq.trans hu
  · exact absurd ((hr f hf).symm.trans hw) (ha hd')
  · exact absurd ((hr f hf).symm.trans hw) hd

theorem runRequest_held (h : runRequest r s = .next t) (ho : r ≠ .openSession) (hc : r ≠ .closeSession)
    (hd : r ≠ .detach) : t.held = s.held := by
  refine runRequest_induction (P := fun u => u.held = s.held) h rfl fun u u' hm hr hu => ?_
  rcases hm.held_writer with heq | ⟨f, hf, hw | hw | hw⟩
  · exact heq.trans hu
  · exact absurd ((hr f hf).symm.trans hw) ho
  · exact absurd ((hr f hf).symm.trans hw) hc
  · exact absurd ((hr f hf).symm.trans hw) hd

/-- Settles O46: an instruction is a codec output or the run of a request, and in a run only the request's own
micro-steps write. -/
theorem devAndSessionWriters : Obligations.DevAndSessionWriters := by
  intro i s t h
  cases exec_form s.port i with
  | puts out hi => cases (hi s rfl).symm.trans h; exact ⟨fun _ _ => rfl, fun _ _ _ => rfl⟩
  | refuses why _ hi => cases (hi s rfl).symm.trans h
  | requests r hi hr =>
    have hrun : runRequest r s = .next t := (hi s rfl).symm.trans h
    rcases hr with rfl | ⟨tag, payload, rfl⟩
    · have hne : ∀ {r' : Request}, r.toInstr ≠ r'.toInstr → r ≠ r' := mt (congrArg Request.toInstr)
      exact ⟨fun ha hd => runRequest_dev hrun (fun h => hne (ha h)) (hne hd),
        fun ho hc hd => runRequest_held hrun (hne ho) (hne hc) (hne hd)⟩
    · exact ⟨fun _ _ => runRequest_dev hrun nofun nofun, fun _ _ _ => runRequest_held hrun nofun nofun nofun⟩

/-! ## Well-formed states lack no micro-step, R22 -/

theorem require_ne_refused {c : Bool} {why w : Refusal} {k : StepOutcome} (hw : why ≠ w) (hk : k ≠ .refused w) :
    require c why k ≠ .refused w := by
  cases c with
  | false => simpa using hw
  | true => exact hk

theorem startStep_ne_noSuchMicroStep (p : Port) (r : Request) (s : State) :
    startStep p r s ≠ .refused .noSuchMicroStep := by
  cases r with
  | attach h => exact require_ne_refused (by decide) nofun
  | detach => exact require_ne_refused (by decide) nofun
  | closeSession => exact require_ne_refused (by decide) nofun
  | sendCmd tag payload => exact require_ne_refused (by decide) nofun
  | transact kind sel reg value =>
    exact require_ne_refused (by decide) (require_ne_refused (by decide) nofun)
  | openSession =>
    simp only [startStep, openS1]
    split <;> exact nofun

theorem openS2_ne_noSuchMicroStep (p : Port) (s : State) : openS2 p s ≠ .refused .noSuchMicroStep := by
  unfold openS2
  split <;> exact nofun

/-- Only a request with transactions has a T4 to go on from. -/
theorem afterTransfer_ne_noSuchMicroStep {x : Transfer} (p : Port) (resp : BusResp) (s : State)
    (hx : (transfersOf r)[n]? = some x) : afterTransfer p r n x resp s ≠ .refused .noSuchMicroStep := by
  cases r with
  | attach h => exact nofun
  | transact kind sel reg value => exact nofun
  | sendCmd tag payload =>
    simp only [afterTransfer, sendAfter]
    split
    · exact nofun
    all_goals split <;> exact nofun
  | detach | openSession | closeSession => simp [transfersOf] at hx

theorem xactStep_ne_noSuchMicroStep (p : Port) (ph : Phase) (s : State) (hn : n < (transfersOf r).length) :
    xactStep p r n ph s ≠ .refused .noSuchMicroStep := by
  have hx : (transfersOf r)[n]? = some (transfersOf r)[n] := List.getElem?_eq_getElem hn
  cases ph with
  | acquire => rw [xactStep_acquire hx]; exact nofun
  | retarget => rw [xactStep_retarget hx]; exact nofun
  | transfer => rw [xactStep_transfer hx]; exact nofun
  | release resp =>
    rw [xactStep_release hx]
    exact afterTransfer_ne_noSuchMicroStep p resp _ hx

theorem FlightsWf.microStep_ne_noSuchMicroStep (h : FlightsWf s) (p : Port) :
    microStep p s ≠ .refused .noSuchMicroStep := by
  cases hf : flightOn p s.flights with
  | none => rw [microStep_of_idle hf]; exact nofun
  | some f =>
    obtain ⟨r, m⟩ := f
    obtain ⟨-, -, hfit⟩ := h.of_flightOn hf
    cases m with
    | start => rw [microStep_start hf]; exact startStep_ne_noSuchMicroStep p r s
    | xact n ph => rw [microStep_xact hf]; exact xactStep_ne_noSuchMicroStep p ph s (of_decide_eq_true hfit)
    | openS2 =>
      obtain rfl : r = .openSession := by simpa [microFits] using hfit
      rw [microStep_openS2 hf]
      exact openS2_ne_noSuchMicroStep p s
    | expose =>
      cases r with
      | attach hd => rw [microStep_expose hf]; exact nofun
      | _ => cases hfit

theorem FlightsWf.drive_ne_noSuchMicroStep (h : FlightsWf s) (p : Port) (k : Nat) :
    drive k p s ≠ .refused .noSuchMicroStep := by
  induction k generalizing s with
  | zero => exact nofun
  | succ k ih =>
    rw [drive_succ]
    cases hm : microStep p s with
    | next s' => rw [thenStep_next]; exact ih ((microStep_cases hm).flightsWf h)
    | fault e => exact nomatch e
    | refused why => rw [thenStep_refused, ← hm]; exact h.microStep_ne_noSuchMicroStep p

theorem accept_ne_noSuchMicroStep (p : Port) (r : Request) (s : State) :
    accept p r s ≠ .refused .noSuchMicroStep :=
  require_ne_refused (by decide) (require_ne_refused (by decide) (require_ne_refused (by decide) nofun))

theorem FlightsWf.runRequest_ne_noSuchMicroStep (h : FlightsWf s) (r : Request) :
    runRequest r s ≠ .refused .noSuchMicroStep := by
  rw [runRequest]
  cases ha : accept s.port r s with
  | next s' =>
    obtain ⟨rfl, hacc, hi, -⟩ := accept_eq_next ha
    rw [thenStep_next]
    exact (h.present hacc hi.1 rfl).drive_ne_noSuchMicroStep s.port microBudget
  | fault e => exact nomatch e
  | refused why => rw [thenStep_refused, ← ha]; exact accept_ne_noSuchMicroStep s.port r s

theorem FlightsWf.exec_ne_noSuchMicroStep (h : FlightsWf s) (i : Instr) : exec i s ≠ .refused .noSuchMicroStep := by
  cases exec_form s.port i with
  | puts out hi => rw [hi s rfl]; exact nofun
  | refuses why hwhy hi => rw [hi s rfl]; simpa using hwhy
  | requests r hi => rw [hi s rfl]; exact h.runRequest_ne_noSuchMicroStep r

/-- The refusals of the fetch are those of the ports (R56, R60, R68). -/
theorem fetch_ne_noSuchMicroStep (ev : Event) : fetch ev ≠ .refuse .noSuchMicroStep := by
  cases ev with
  | grant | enc => exact nofun
  | run | issue | cmd | dec =>
    simp only [fetch]
    split <;> exact nofun

/-- Settles O44, by what an event asks for: each of it keeps clear of that refusal in a well-formed state. -/
theorem wellFormedFlightsAlwaysHaveAMicroStep : Obligations.WellFormedFlightsAlwaysHaveAMicroStep := by
  intro s h
  unfold step
  split
  · exact nofun
  · rename_i ev rest _
    have hserved : FlightsWf (serve ev rest s) := h
    split
    · exact hserved.exec_ne_noSuchMicroStep _
    · exact accept_ne_noSuchMicroStep _ _ _
    · exact hserved.microStep_ne_noSuchMicroStep _
    · exact nofun
    · rename_i why hfetch
      rintro ⟨⟩
      exact fetch_ne_noSuchMicroStep ev hfetch

/-! ## ADDR is written before it is read, R21 -/

/-- The state with another ADDR, as O48 compares them. -/
def State.withAddr (a : BusAddr) (s : State) : State :=
  { s with addr := a }

@[simp] theorem withAddr_dev (a : BusAddr) (s : State) : (s.withAddr a).dev = s.dev := rfl
@[simp] theorem withAddr_held (a : BusAddr) (s : State) : (s.withAddr a).held = s.held := rfl
@[simp] theorem withAddr_tlock (a : BusAddr) (s : State) : (s.withAddr a).tlock = s.tlock := rfl
@[simp] theorem withAddr_flights (a : BusAddr) (s : State) : (s.withAddr a).flights = s.flights := rfl
@[simp] theorem withAddr_port (a : BusAddr) (s : State) : (s.withAddr a).port = s.port := rfl

/-- T3, the one micro-step that reads ADDR, is next on port `p`. -/
def atTransfer (p : Port) (s : State) : Prop :=
  ∃ r n, flightOn p s.flights = some ⟨r, .xact n .transfer⟩

theorem sameButAddr_refl (o : StepOutcome) : sameButAddr o o := by
  cases o with
  | next s => rfl
  | fault e => exact nomatch e
  | refused why => rfl

theorem not_atTransfer_of_flightOn {m : Micro} (h : flightOn p s.flights = some ⟨r, m⟩)
    (hm : ∀ n, m ≠ .xact n .transfer) : ¬ atTransfer p s := by
  rintro ⟨r', n, h'⟩
  cases h.symm.trans h'
  exact hm n rfl

theorem not_atTransfer_of_idle (h : flightOn p s.flights = none) : ¬ atTransfer p s := by
  rintro ⟨r, n, h'⟩
  cases h.symm.trans h'

/-- T3 comes right after T2, which writes ADDR. -/
theorem MicroCase.retarget_of_atTransfer (h : MicroCase p s s') (ht : atTransfer p s') :
    ∃ r n x, flightOn p s.flights = some ⟨r, .xact n .retarget⟩ ∧ (transfersOf r)[n]? = some x := by
  cases h with
  | retargets r n x hf hx => exact ⟨r, n, x, hf, hx⟩
  | idle hf => exact absurd ht (not_atTransfer_of_idle hf)
  | waits r n x hf => exact absurd ht (not_atTransfer_of_flightOn hf nofun)
  | detaches | openBusy | openAbsent | openDone | closes | transactEnds | sendEnds | exposes =>
    exact absurd ht (not_atTransfer_of_idle flightOn_clearFlight_same)
  | attachGoesOn =>
    exact absurd ht (not_atTransfer_of_flightOn (flightOn_setFlight_same _ _ _) (by split <;> exact nofun))
  | attachStarts | openTakes | transactStarts | sendStarts | acquires | transfers | sendGoesOn =>
    exact absurd ht (not_atTransfer_of_flightOn (flightOn_setFlight_same _ _ _) nofun)

/-- An outcome with another ADDR in its next state. -/
def nextWithAddr (a : BusAddr) (o : StepOutcome) : StepOutcome :=
  thenStep o fun t => .next (t.withAddr a)

theorem require_nextWithAddr {a : BusAddr} (c : Bool) (why : Refusal) {k k' : StepOutcome}
    (h : k' = nextWithAddr a k) : require c why k' = nextWithAddr a (require c why k) := by
  cases c with
  | false => rfl
  | true => exact h

/-- Of the first micro-steps DETACH writes ADDR, and the others leave it alone. -/
theorem startStep_withAddr (a : BusAddr) (p : Port) (r : Request) (s : State) :
    startStep p r (s.withAddr a) = startStep p r s ∨
      startStep p r (s.withAddr a) = nextWithAddr a (startStep p r s) := by
  cases r with
  | detach => exact .inl rfl
  | attach h => exact .inr (require_nextWithAddr _ _ rfl)
  | closeSession => exact .inr (require_nextWithAddr _ _ rfl)
  | sendCmd tag payload => exact .inr (require_nextWithAddr _ _ rfl)
  | transact kind sel reg value => exact .inr (require_nextWithAddr _ _ (require_nextWithAddr _ _ rfl))
  | openSession =>
    right
    cases hh : s.held <;> simp only [startStep, openS1, withAddr_held, hh, reduceIte] <;> rfl

theorem openS2_withAddr (a : BusAddr) (p : Port) (s : State) :
    openS2 p (s.withAddr a) = nextWithAddr a (openS2 p s) := by
  simp only [openS2, withAddr_dev]
  split <;> rfl

theorem acquireStep_withAddr (a : BusAddr) (p : Port) (r : Request) (n : Nat) (s : State) :
    acquireStep p r n (s.withAddr a) = (acquireStep p r n s).withAddr a := by
  simp only [acquireStep, withAddr_tlock]
  split <;> rfl

theorem afterTransfer_withAddr (a : BusAddr) (p : Port) (r : Request) (n : Nat) (x : Transfer) (resp : BusResp)
    (s : State) : afterTransfer p r n x resp (s.withAddr a) = nextWithAddr a (afterTransfer p r n x resp s) := by
  cases r with
  | attach | transact | detach | openSession | closeSession => rfl
  | sendCmd tag payload =>
    simp only [afterTransfer, sendAfter]
    split
    · rfl
    all_goals split <;> rfl

/-- T2 writes ADDR, T1 and T4 leave it alone, and T3 reads what T2 wrote. -/
theorem xactStep_withAddr {a : BusAddr} {ph : Phase} (h : ph = .transfer → a = s.addr) :
    xactStep p r n ph (s.withAddr a) = xactStep p r n ph s ∨
      xactStep p r n ph (s.withAddr a) = nextWithAddr a (xactStep p r n ph s) := by
  cases hx : (transfersOf r)[n]? with
  | none => exact .inl (by simp only [xactStep, hx])
  | some x =>
    cases ph with
    | acquire =>
      right
      rw [xactStep_acquire hx, xactStep_acquire hx, acquireStep_withAddr]
      rfl
    | retarget => exact .inl (by rw [xactStep_retarget hx, xactStep_retarget hx]; rfl)
    | transfer => obtain rfl := h rfl; exact .inl rfl
    | release resp =>
      right
      rw [xactStep_release hx, xactStep_release hx]
      exact afterTransfer_withAddr a p r n x resp (releaseStep s)

theorem microStep_withAddr {a : BusAddr} (h : atTransfer p s → a = s.addr) :
    microStep p (s.withAddr a) = microStep p s ∨
      microStep p (s.withAddr a) = nextWithAddr a (microStep p s) := by
  cases hf : flightOn p s.flights with
  | none =>
    have hfa : flightOn p (s.withAddr a).flights = none := hf
    exact .inr (by rw [microStep_of_idle hf, microStep_of_idle hfa]; rfl)
  | some f =>
    have hfa : flightOn p (s.withAddr a).flights = some f := hf
    obtain ⟨r, m⟩ := f
    cases m with
    | start =>
      rw [microStep_start hf, microStep_start hfa]
      exact startStep_withAddr a p r s
    | xact n ph =>
      rw [microStep_xact hf, microStep_xact hfa]
      exact xactStep_withAddr fun hph => h ⟨r, n, hph ▸ hf⟩
    | openS2 =>
      cases r with
      | openSession =>
        rw [microStep_openS2 hf, microStep_openS2 hfa]
        exact .inr (openS2_withAddr a p s)
      | _ => exact .inl (by simp only [microStep, hf, hfa])
    | expose =>
      cases r with
      | attach hd =>
        rw [microStep_expose hf, microStep_expose hfa]
        exact .inr rfl
      | _ => exact .inl (by simp only [microStep, hf, hfa])

/-- A request driven alone does the same whatever ADDR is, unless it has come to T3 already. -/
theorem drive_withAddr (k : Nat) {a : BusAddr} (h : atTransfer p s → a = s.addr) :
    sameButAddr (drive k p s) (drive k p (s.withAddr a)) := by
  induction k generalizing s with
  | zero => rfl
  | succ k ih =>
    rw [drive_succ, drive_succ]
    by_cases heq : microStep p (s.withAddr a) = microStep p s
    · rw [heq]
      exact sameButAddr_refl _
    · rw [(microStep_withAddr h).resolve_left heq]
      cases hm : microStep p s with
      | fault e => exact nomatch e
      | refused why => rfl
      | next t =>
        simp only [nextWithAddr, thenStep_next]
        refine ih fun ht => absurd ?_ heq
        obtain ⟨r, n, x, hf, hx⟩ := (microStep_cases hm).retarget_of_atTransfer ht
        have hf' : flightOn p (s.withAddr a).flights = some ⟨r, .xact n .retarget⟩ := hf
        rw [microStep_xact hf, microStep_xact hf', xactStep_retarget hx, xactStep_retarget hx]
        rfl

theorem accept_withAddr (a : BusAddr) (p : Port) (r : Request) (s : State) :
    accept p r (s.withAddr a) = nextWithAddr a (accept p r s) :=
  require_nextWithAddr _ _ (require_nextWithAddr _ _ (require_nextWithAddr _ _ rfl))

theorem runRequest_withAddr (a : BusAddr) (r : Request) (s : State) :
    sameButAddr (runRequest r s) (runRequest r (s.withAddr a)) := by
  rw [runRequest, runRequest, withAddr_port, accept_withAddr]
  cases ha : accept s.port r s with
  | fault e => exact nomatch e
  | refused why => rfl
  | next t =>
    obtain ⟨rfl, -⟩ := accept_eq_next ha
    simp only [nextWithAddr, thenStep_next]
    exact drive_withAddr microBudget fun ht =>
      absurd ht (not_atTransfer_of_flightOn (flightOn_setFlight_same _ _ _) nofun)

/-- Settles O48: a codec port does not look at ADDR, and a request comes to T3 through its own T2. -/
theorem noInstructionReadsAddr : Obligations.NoInstructionReadsAddr := by
  intro i s a
  cases exec_form s.port i with
  | puts out hi => rw [hi s rfl, hi { s with addr := a } rfl]; rfl
  | refuses why _ hi => rw [hi s rfl, hi { s with addr := a } rfl]; rfl
  | requests r hi => rw [hi s rfl, hi { s with addr := a } rfl]; exact runRequest_withAddr a r s

/-! ## A TRANSACT on an open session, R93 -/

/-- Under `truncate` every write value is accepted (R84). -/
theorem valueAccepted_eq_true (kind : Kind) (value : WriteValue) : valueAccepted kind value = true := by
  cases kind <;> rfl

theorem startStep_transact {kind : Kind} {sel : Chip} {reg : Byte} {value : WriteValue} (p : Port)
    (hh : s.held = true) : startStep p (.transact kind sel reg value) s =
      .next (advance p (.transact kind sel reg value) (.xact 0 .acquire) s) := by
  simp only [startStep, transactStart, hh, valueAccepted_eq_true, require_true]

@[simp] theorem advance_advance (p : Port) (r r' : Request) (m m' : Micro) (s : State) :
    advance p r' m' (advance p r m s) = advance p r' m' s := by
  simp [advance]

theorem handleFor_advance (p : Port) (r r' : Request) (m : Micro) (s : State) :
    handleFor r (advance p r' m s) = handleFor r s := by
  cases r <;> rfl

/-- What is left of a request that ends with its transaction: the transaction's effect and the response. -/
theorem respond_atRelease (x : Transfer) (resp : Response) (m : Micro) (hi : flightOn p s.flights = none) :
    respond p resp (atRelease p r n x (advance p r m s)) = said p resp (wholeTransfer (handleFor r s) x s) := by
  have hflights : clearFlight p (atRelease p r n x (advance p r m s)).flights = s.flights := by
    simp [atRelease, clearFlight_of_idle hi]
  simp only [respond, hflights]
  simp only [atRelease, handleFor_advance]
  rfl

/-- A TRANSACT on an open session with TLOCK free is one whole transaction, answered with its outcome (R80, R93). -/
theorem runRequest_transact {kind : Kind} {sel : Chip} {reg : Byte} {value : WriteValue} {x : Transfer}
    (hr : r = .transact kind sel reg value) (hx : (transfersOf r)[0]? = some x) (hacc : r.acceptedOn s.port = true)
    (hi : idle s.port s) (hh : s.held = true) (hl : s.tlock = .free) :
    runRequest r s =
      .next (said s.port (transactResponse (wholeResponse x s)) (wholeTransfer (handleFor r s) x s)) := by
  have hne : r ≠ .detach := by rw [hr]; exact nofun
  have hstart : startStep s.port r (advance s.port r .start s) = .next (advance s.port r (.xact 0 .acquire) s) := by
    rw [hr, startStep_transact s.port (s := advance ..) hh, advance_advance]
  have hafter (resp : BusResp) (u : State) :
      afterTransfer s.port r 0 x resp u = .next (respond s.port (transactResponse resp) u) := by
    rw [hr]; rfl
  have hat : flightOn s.port (advance s.port r (.xact 0 .acquire) s).flights = some ⟨r, .xact 0 .acquire⟩ :=
    flightOn_setFlight_same ..
  rw [runRequest_eq hacc hi (.inl hne), hstart, thenStep_next, drive_transaction 21 hat hx hl, hafter, thenStep_next,
    respond_atRelease _ _ _ hi.2, drive_of_idle]
  · rfl
  · exact hi.2

/-- Settles O49: the transaction and its outcome are those of the state without its port. -/
theorem transactIgnoresWhoAsks : Obligations.TransactIgnoresWhoAsks := by
  intro k j kind sel reg value s hk hj hh hl
  obtain ⟨x, hx⟩ : ∃ x, (transfersOf (.transact kind sel reg value))[0]? = some x := by
    cases kind <;> exact ⟨_, rfl⟩
  refine ⟨wholeTransfer (handleFor (.transact kind sel reg value) s) x s, transactResponse (wholeResponse x s),
    ?_, ?_⟩
  · exact runRequest_transact (s := { s with port := .client k }) rfl hx rfl hk hh hl
  · exact runRequest_transact (s := { s with port := .client j }) rfl hx rfl hj hh hl

end Sys2Proof.Machine
end

section
/-! PROOFS. The register spaces of the chips (spec/20_memory.md): the addresses on the bus (R26), and the ideal
responder's bytes under TRANSACT (R33). -/

namespace Sys2Proof.Machine

open Sys2Proof.Expected

/-! ## The addresses on the bus, R26 -/

/-- Settles O37: a micro-step in a state that meets the transport's invariant sends its bus operation to a chip, and
nothing else a step does is a bus operation. -/
theorem busAddressesStayLegal : Obligations.BusAddressesStayLegal := by
  intro s s' htransport htrace h
  have hboth : TransportInv s' ∧ TraceInv s' := by
    refine step_induction (P := fun t => TransportInv t ∧ TraceInv t) h ⟨htransport, htrace⟩ ?serve ?present ?micro
      ?enc ?dec
    case serve => exact fun _ _ _ ht => ht
    case present => exact fun _ _ _ ha hi ⟨ht, hx⟩ => ⟨ht.present ha hi, hx⟩
    case micro => exact fun _ _ _ hc ⟨ht, hx⟩ => ⟨hc.transportInv ht, hc.traceInv ht hx⟩
    case enc => exact fun _ _ ⟨ht, hx⟩ => ⟨ht, hx.output nofun⟩
    case dec => exact fun _ _ ⟨ht, hx⟩ => ⟨ht, hx.output nofun⟩
  exact hboth.2

/-! ## Registers and their keys -/

theorem addressOf_eq_a7Of (sel : Chip) : addressOf sel = a7Of sel := by
  cases sel <;> rfl

theorem a7Of_injective : Function.Injective a7Of := by
  intro c c' h
  cases c with
  | text =>
    cases c' with
    | text => rfl
    | backlight => exact absurd h (by decide)
  | backlight =>
    cases c' with
    | text => exact absurd h (by decide)
    | backlight => rfl

/-- A register offset is a byte, so the key has room for it below the bus address. -/
theorem key_inj {a a' : BusAddr} {reg reg' : Byte} : key a reg = key a' reg' ↔ a = a' ∧ reg = reg' := by
  constructor
  · intro h
    have hreg : reg.toNat < 256 := reg.isLt
    have hreg' : reg'.toNat < 256 := reg'.isLt
    simp only [key] at h
    exact ⟨BitVec.eq_of_toNat_eq (by omega), BitVec.eq_of_toNat_eq (by omega)⟩
  · rintro ⟨rfl, rfl⟩
    rfl

/-- The registers of the two chips have keys of their own. -/
theorem key_ne_of_register_ne {sel sel' : Chip} {reg reg' : Byte} (h : (sel', reg') ≠ (sel, reg)) :
    key (a7Of sel') reg' ≠ key (a7Of sel) reg := by
  intro hkey
  obtain ⟨ha, rfl⟩ := key_inj.1 hkey
  exact h (by rw [a7Of_injective ha])

theorem lowByte_eq_extractLsb' (value : WriteValue) : lowByte value = value.extractLsb' 0 8 :=
  BitVec.setWidth_eq_extractLsb' (by decide)

/-! ## TRANSACT with the ideal responder, R33, R82, R83 -/

variable {k : Nat} {cells : Memory} {s : State}

@[simp] theorem responses_append (a b : List Output) : responses (a ++ b) = responses a ++ responses b :=
  List.filterMap_append

/-- The responses after a transaction and what is answered with it: a bus operation is none. -/
theorem responses_said_wholeTransfer (p : Port) (resp : Response) (h : Handle) (x : Transfer) (s : State) :
    responses (said p resp (wholeTransfer h x s)).outputs = responses s.outputs ++ [(p, resp)] := by
  have hout : (said p resp (wholeTransfer h x s)).outputs =
      s.outputs ++ [.bus h (busOpOf (a7Of x.sel) x) (wholeResponse x s)] ++ [.response p resp] := rfl
  rw [hout, responses_append, responses_append, List.append_assoc]
  rfl

/-- The ideal responder accepts every write (R33). -/
theorem exec_write_ideal (sel : Chip) (reg : Byte) (value : WriteValue) (hi : idle (.client k) s)
    (hh : s.held = true) (hl : s.tlock = .free) (hr : s.responder = .ideal cells) :
    exec (.transact .write sel reg value) { s with port := .client k } =
      .next (said (.client k) .ok
        (wholeTransfer (handleOf s) (writeTransfer sel reg value) { s with port := .client k })) := by
  have hresp : wholeResponse (writeTransfer sel reg value) { s with port := .client k } = .okWrite := by
    simp only [wholeResponse, busResponse, hr]
    rfl
  have hrun := runRequest_transact (r := .transact .write sel reg value) (s := { s with port := .client k })
    rfl rfl rfl hi hh hl
  rw [hresp] at hrun
  exact hrun

/-- The ideal responder answers a read with the byte it holds (R33). -/
theorem exec_read_ideal {b : Byte} (sel : Chip) (reg : Byte) (value : WriteValue) (hi : idle (.client k) s)
    (hh : s.held = true) (hl : s.tlock = .free) (hr : s.responder = .ideal cells)
    (hb : cells.read (key (a7Of sel) reg) = some b) :
    exec (.transact .read sel reg value) { s with port := .client k } =
      .next (said (.client k) (.okData b)
        (wholeTransfer (handleOf s) (readTransfer sel reg) { s with port := .client k })) := by
  have hresp : wholeResponse (readTransfer sel reg) { s with port := .client k } = .okRead b := by
    simp [wholeResponse, busResponse, hr, answerTo, busOpOf, readTransfer, hb]
  have hrun := runRequest_transact (r := .transact .read sel reg value) (s := { s with port := .client k })
    rfl rfl rfl hi hh hl
  rw [hresp] at hrun
  exact hrun

/-- After a write the ideal responder holds the low byte of the value at the register (R33, R84). -/
theorem responder_write_ideal (p : Port) (resp : Response) (h : Handle) (sel : Chip) (reg : Byte) (value : WriteValue)
    (hr : s.responder = .ideal cells) :
    (said p resp (wholeTransfer h (writeTransfer sel reg value) s)).responder =
      .ideal (cells.write (key (a7Of sel) reg) (lowByte value)) := by
  simp only [said, wholeTransfer_responder, hr]
  rfl

/-- Settles O54: the write is one whole transaction that stores the low byte, the keys of the other registers differ
from this one's, and the read finds the byte stored. -/
theorem idealResponderReadsBack : Obligations.IdealResponderReadsBack := by
  intro k j sel reg value value' cells s hk hj hh hl hr
  have hresponder := responder_write_ideal (s := { s with port := .client k }) (.client k) .ok (handleOf s) sel reg
    value hr
  have hread := exec_read_ideal sel reg value' (k := j)
    (s := said (.client k) .ok
      (wholeTransfer (handleOf s) (writeTransfer sel reg value) { s with port := .client k }))
    hj hh hl hresponder (Memory.read_write_same ..)
  refine ⟨_, _, _, exec_write_ideal sel reg value hk hh hl hr, hresponder, ?others, hread, ?answers⟩
  case others =>
    intro sel' reg' hne
    rw [addressOf_eq_a7Of]
    exact Memory.read_write_other (key_ne_of_register_ne hne) _ _
  case answers =>
    rw [responses_said_wholeTransfer, responses_said_wholeTransfer, lowByte_eq_extractLsb', List.append_assoc]
    rfl

end Sys2Proof.Machine
end

section
/-! PROOFS. The encodings (spec/30_encoding.md): commands and requests decode from what they are encoded as (R45, R48,
R50, R56), the rows of the table do not overlap (R61), and a stream is cut into its commands (R47). -/

namespace Sys2Proof

variable {i : Instr} {tag : Tag} {payload : Byte} {opcode : Byte} {param : Option Byte}

/-! ## Raw Commands: DECODE after ENCODE, R52, R63, R64 -/

/-- ENCODE's bytes decode to the raw Command with the unused payload bits cleared. -/
theorem decodeRaw_encodeRaw (tag : Tag) (payload : Byte) :
    decodeRaw (opcodeOf tag) (encodeRaw tag payload).param? = .ok (tag, payload &&& maskOf tag) := by
  cases h : hasParam tag with
  | false =>
    have hparam : (encodeRaw tag payload).param? = none := by simp [EncOut.param?, encodeRaw, h]
    rw [hparam, decodeRaw_cmd0 h, maskOf_of_no_param tag h]
    simp
  | true =>
    have hparam : (encodeRaw tag payload).param? = some (payload &&& maskOf tag) := by
      simp [EncOut.param?, encodeRaw, h]
    rw [hparam, decodeRaw_cmd1 h, if_pos (masked_has_no_reserved tag payload)]

/-- The mask changes nothing of a well-formed payload. -/
theorem and_maskOf_of_wellFormed (h : rawWellFormed tag payload = true) : payload &&& maskOf tag = payload :=
  and_maskOf_of_no_reserved tag payload (by simpa [rawWellFormed] using h)

/-- What DECODE accepts is the opcode of a tag, and the payload has no reserved bit. -/
theorem decodeRaw_eq_ok (h : decodeRaw opcode param = .ok (tag, payload)) :
    opcode = opcodeOf tag ∧ rawWellFormed tag payload = true := by
  by_cases hone : popcount opcode = 1
  case neg => simp [decodeRaw_of_unknown hone] at h
  obtain ⟨t, rfl, -⟩ := opcode_of_one_bit opcode hone
  cases ht : hasParam t with
  | false =>
    rw [decodeRaw_cmd0 ht] at h
    split at h <;> cases h
    exact ⟨rfl, by simp [rawWellFormed]⟩
  | true =>
    cases param with
    | none => simp [decodeRaw_cmd1_none ht] at h
    | some b =>
      rw [decodeRaw_cmd1 ht] at h
      split at h <;> cases h
      exact ⟨rfl, by simpa [rawWellFormed]⟩

/-- ENCODE forces the unused payload bits to zero itself. -/
theorem encodeRaw_and_maskOf (tag : Tag) (payload : Byte) :
    encodeRaw tag (payload &&& maskOf tag) = encodeRaw tag payload := by
  simp [encodeRaw, BitVec.and_assoc]

/-! ## Commands and their raw Commands, R49, R50 -/

/-- The fields are read back from the payload they were put into. -/
theorem commandOf_of_raw (h : i.raw? = some (tag, payload)) : commandOf tag payload = i := by
  cases i with
  | clearDisplay | returnHome => cases h; rfl
  | entryModeSet a b => cases h; revert a b; decide
  | displayOnOffCtl a b c => cases h; revert a b c; decide
  | cursorOrDisplayShift a b => cases h; revert a b; decide
  | functionSet a b c => cases h; revert a b c; decide
  | setCgramAddress a => cases h; revert a; decide
  | setDdramAddress a => cases h; revert a; decide
  | attach | detach | openSession | closeSession | transact | sendCmd => cases h

/-- A command has no reserved bit, by construction (R52). -/
theorem and_maskOf_of_raw (h : i.raw? = some (tag, payload)) : payload &&& maskOf tag = payload := by
  have hmasked := raw_commandOf tag payload
  rw [commandOf_of_raw h, h] at hmasked
  exact congrArg Prod.snd (Option.some.inj hmasked.symm)

theorem raw_commandOf_of_wellFormed (h : rawWellFormed tag payload = true) :
    (commandOf tag payload).raw? = some (tag, payload) := by
  rw [raw_commandOf, and_maskOf_of_wellFormed h]

/-- The encoding of a command is ENCODE of its raw Command (R45, R48). -/
theorem encode_of_raw (h : i.raw? = some (tag, payload)) :
    encode i = .command (opcodeOf tag) (encodeRaw tag payload).param? := by
  simp only [EncOut.param?, encodeRaw, and_maskOf_of_raw h]
  cases i <;> cases h <;> rfl

theorem bytes_encode_of_raw (h : i.raw? = some (tag, payload)) :
    (encode i).bytes = (encodeRaw tag payload).bytes := by
  rw [encode_of_raw h]
  rfl

/-- A command decodes from ENCODE of its raw Command. -/
theorem decodeCommand_of_raw (h : i.raw? = some (tag, payload)) :
    decodeCommand (opcodeOf tag) (encodeRaw tag payload).param? = .ok i := by
  rw [decodeCommand, decodeRaw_encodeRaw, and_maskOf_of_raw h]
  exact congrArg Except.ok (commandOf_of_raw h)

/-! ## Requests and their records, R56 -/

@[simp] theorem Kind.ofBit_bit (k : Kind) : Kind.ofBit k.bit = k := by
  cases k <;> rfl

@[simp] theorem Kind.bit_ofBit : ∀ b : BitVec 1, (Kind.ofBit b).bit = b := by
  decide

@[simp] theorem Chip.ofBit_bit (c : Chip) : Chip.ofBit c.bit = c := by
  cases c <;> rfl

@[simp] theorem decodeRecord_record (r : Request) : decodeRecord r.record = .ok r := by
  cases r with
  | attach | detach | openSession | closeSession | sendCmd => rfl
  | transact kind sel reg value => simp [decodeRecord, Request.record]

/-- On a port of its kind a request decodes from its record. -/
theorem decodeRequest_record {r : Request} {p : Port} (h : r.acceptedOn p = true) :
    decodeRequest p r.record = .ok r := by
  simp [decodeRequest, h]

/-- The encoding of a request is its record. -/
theorem encode_toInstr (r : Request) : encode r.toInstr = .request r.record := by
  cases r <;> rfl

/-- An instruction is a command or a request. -/
theorem raw_or_request (i : Instr) :
    (∃ tag payload, i.raw? = some (tag, payload)) ∨ ∃ r : Request, i = r.toInstr := by
  cases i with
  | attach h => exact .inr ⟨.attach h, rfl⟩
  | detach => exact .inr ⟨.detach, rfl⟩
  | openSession => exact .inr ⟨.openSession, rfl⟩
  | closeSession => exact .inr ⟨.closeSession, rfl⟩
  | transact kind sel reg value => exact .inr ⟨.transact kind sel reg value, rfl⟩
  | sendCmd tag payload => exact .inr ⟨.sendCmd tag payload, rfl⟩
  | clearDisplay | returnHome | entryModeSet | displayOnOffCtl | cursorOrDisplayShift | functionSet
  | setCgramAddress | setDdramAddress => exact .inl ⟨_, _, rfl⟩

/-- Settles O3: a command decodes from ENCODE of its raw Command, a request from its record. -/
theorem everyInstructionDecodesFromItsEncoding : Obligations.EveryInstructionDecodesFromItsEncoding := by
  intro i
  rcases raw_or_request i with ⟨tag, payload, h⟩ | ⟨r, rfl⟩
  · rw [encode_of_raw h]
    exact decodeCommand_of_raw h
  · rw [encode_toInstr, decode, decodeRecord_record]
    rfl

/-- Settles O7: the words of R51 and of E6, E7 are evaluated; the handle of an ATTACH passes through its record. -/
theorem specWordsDecode : Obligations.SpecWordsDecode :=
  ⟨by decide, by decide, by decide, by decide, by decide, by decide, by decide, by decide,
    fun h => decodeRequest_record (r := .attach h) rfl, by decide, by decide, by decide, by decide⟩

/-! ## The rows of the table, R61 -/

/-- Two rows of one width that ask for the same bits wherever both masks look are one row. -/
theorem row_eq_of_patterns_agree : ∀ row ∈ commandRows ++ requestRows, ∀ row' ∈ commandRows ++ requestRows,
    row'.width = row.width → row'.pattern &&& row.mask = row.pattern &&& row'.mask → row' = row := by
  decide

theorem TableRow.and_mask_of_matches {row : TableRow} {w : Nat} (h : row.matches w = true) :
    w &&& row.mask = row.pattern := by
  simp only [TableRow.matches, Bool.and_eq_true, beq_iff_eq] at h
  exact h.2

/-- No word matches two rows of one width. -/
theorem row_eq_of_matches {row row' : TableRow} {w : Nat} (hrow : row ∈ commandRows ++ requestRows)
    (hrow' : row' ∈ commandRows ++ requestRows) (hwidth : row'.width = row.width) (hw : row.matches w = true)
    (hw' : row'.matches w = true) : row' = row := by
  refine row_eq_of_patterns_agree row hrow row' hrow' hwidth ?_
  calc row'.pattern &&& row.mask
      = w &&& row'.mask &&& row.mask := by rw [TableRow.and_mask_of_matches hw']
    _ = w &&& row.mask &&& row'.mask := Nat.and_right_comm ..
    _ = row.pattern &&& row'.mask := by rw [TableRow.and_mask_of_matches hw]

/-- Every word matches the row of its mnemonic. -/
theorem exists_row_matches (i : Instr) : Laws.RowMatch.Statement i := by
  cases i with
  | clearDisplay => exact Laws.RowMatch.clearDisplay
  | returnHome => exact Laws.RowMatch.returnHome
  | entryModeSet => exact Laws.RowMatch.entryModeSet ..
  | displayOnOffCtl => exact Laws.RowMatch.displayOnOffCtl ..
  | cursorOrDisplayShift => exact Laws.RowMatch.cursorOrDisplayShift ..
  | functionSet => exact Laws.RowMatch.functionSet ..
  | setCgramAddress => exact Laws.RowMatch.setCgramAddress _
  | setDdramAddress => exact Laws.RowMatch.setDdramAddress _
  | attach => exact Laws.RowMatch.attach _
  | detach => exact Laws.RowMatch.detach
  | openSession => exact Laws.RowMatch.openSession
  | closeSession => exact Laws.RowMatch.closeSession
  | transact => exact Laws.RowMatch.transact ..
  | sendCmd => exact Laws.RowMatch.sendCmd ..

/-- Settles O8: the word matches its mnemonic's row, and rows of one width share no word. -/
theorem everyWordMatchesItsRowAlone : Obligations.EveryWordMatchesItsRowAlone := by
  intro i
  obtain ⟨row, hrow, hname, hwidth, hw⟩ := exists_row_matches i
  exact ⟨row, hrow, hname, hwidth, hw, fun row' hrow' hwidth' hw' =>
    row_eq_of_matches hrow hrow' (hwidth'.trans hwidth.symm) hw hw'⟩

/-! ## The cutting of a stream, R47 -/

variable {rest : List Byte}

theorem decodeBytes_of_cut {b? : Option Byte} {bytes : List Byte} (h : cutCommand bytes = .ok (opcode, b?, rest)) :
    decodeBytes bytes = .ok (decodeCommand opcode b?, rest) := by
  rw [decodeBytes, h]
  rfl

theorem cutCommand_of_length_one (h : commandLength opcode = some 1) :
    cutCommand (opcode :: rest) = .ok (opcode, none, rest) := by
  simp only [cutCommand, h]

theorem cutCommand_of_length_two {b : Byte} (h : commandLength opcode = some 2) :
    cutCommand (opcode :: b :: rest) = .ok (opcode, some b, rest) := by
  simp only [cutCommand, h]

theorem cutCommand_of_no_length (h : commandLength opcode = none) :
    cutCommand (opcode :: rest) = .error .unknownOpcode := by
  simp only [cutCommand, h]

/-- The length of the 256 opcode bytes. -/
theorem commandLength_eq : ∀ opcode : Byte, commandLength opcode =
    if opcode ∈ [0x01#8, 0x02#8] then some 1
    else if opcode ∈ [0x04#8, 0x08#8, 0x10#8, 0x20#8, 0x40#8, 0x80#8] then some 2
    else none := by
  decide

/-- A command's own bytes give that command, and leave what follows them. -/
theorem decodeBytes_encode (h : i.raw? = some (tag, payload)) (rest : List Byte) :
    decodeBytes ((encode i).bytes ++ rest) = .ok (.ok i, rest) := by
  rw [bytes_encode_of_raw h, decodeBytes_of_cut (cutCommand_encodeRaw tag payload rest), decodeCommand_of_raw h]

/-- Settles O9: the cut looks at the length only, and the length at the opcode byte only. -/
theorem streamIsCutByOpcode : Obligations.StreamIsCutByOpcode := by
  refine ⟨commandLength_eq, ?one, ?two, ?invalid, ?own⟩
  case one => exact fun _ _ h => decodeBytes_of_cut (cutCommand_of_length_one h)
  case two => exact fun _ _ _ h => decodeBytes_of_cut (cutCommand_of_length_two h)
  case invalid =>
    intro opcode rest h
    rw [decodeBytes, cutCommand_of_no_length h]
    rfl
  case own => exact fun i c rest h => decodeBytes_encode h rest

/-! ## A stream of commands, R47, R64 -/

@[simp] theorem decodeUpTo_nil (fuel : Nat) : decodeUpTo fuel [] = [] := by
  cases fuel <;> rfl

/-- A command at the head of the stream is the first result. -/
theorem decodeUpTo_encode (h : i.raw? = some (tag, payload)) (fuel : Nat) (rest : List Byte) :
    decodeUpTo (fuel + 1) ((encode i).bytes ++ rest) = .ok i :: decodeUpTo fuel rest := by
  simp only [decodeUpTo, decodeBytes_encode h]

theorem raw_ne_none_iff : i.raw? ≠ none ↔ ∃ tag payload, i.raw? = some (tag, payload) := by
  simp [Option.ne_none_iff_exists']

theorem decodeUpTo_flatMap_encode {is : List Instr} (his : ∀ i ∈ is, i.raw? ≠ none) {fuel : Nat}
    (hfuel : is.length ≤ fuel) : decodeUpTo fuel (is.flatMap fun i => (encode i).bytes) = is.map .ok := by
  induction is generalizing fuel with
  | nil => simp
  | cons i is ih =>
    obtain ⟨tag, payload, hi⟩ := raw_ne_none_iff.1 (his i List.mem_cons_self)
    obtain ⟨fuel, rfl⟩ : ∃ n, fuel = n + 1 := Nat.exists_eq_add_one.2 (Nat.lt_of_lt_of_le (Nat.succ_pos _) hfuel)
    rw [List.flatMap_cons, decodeUpTo_encode hi, List.map_cons,
      ih (fun j hj => his j (List.mem_cons_of_mem i hj)) (Nat.le_of_succ_le_succ hfuel)]

theorem bytes_encode_length_pos (h : i.raw? ≠ none) : 1 ≤ (encode i).bytes.length := by
  obtain ⟨tag, payload, hi⟩ := raw_ne_none_iff.1 h
  simp [bytes_encode_of_raw hi, EncOut.bytes]

/-- Every command takes a byte, so the length of the stream is fuel enough. -/
theorem length_le_flatMap_encode {is : List Instr} (his : ∀ i ∈ is, i.raw? ≠ none) :
    is.length ≤ (is.flatMap fun i => (encode i).bytes).length := by
  induction is with
  | nil => exact Nat.zero_le _
  | cons i is ih =>
    have hi : 1 ≤ (encode i).bytes.length := bytes_encode_length_pos (his i List.mem_cons_self)
    have hrest := ih fun j hj => his j (List.mem_cons_of_mem i hj)
    simp only [List.flatMap_cons, List.length_append, List.length_cons]
    omega

/-- Settles O59, by induction on the list: each command is cut off with its own bytes. -/
theorem streamOfCommandsDecodes : Obligations.StreamOfCommandsDecodes :=
  fun _ his => decodeUpTo_flatMap_encode his (length_le_flatMap_encode his)

end Sys2Proof
end

section
/-! PROOFS. The encodings (spec/30_encoding.md): the status codes of R57, the signals of the ports (R58, R59), the
commands by the port they stand on (R60), and what is no request (R55, R56, R112). -/

namespace Sys2Proof.Machine

variable {p : Port} {r q : Request} {rec : RequestRecord} {tag : Tag} {payload : Byte} {s : State}

/-! ## Status codes, R57 -/

/-- Settles O11: the codes of R57, response by response. -/
theorem statusCodesOfResponses : Obligations.StatusCodesOfResponses := by
  refine ⟨fun r => ?response, fun o => ?dec, fun st => ?unused⟩
  case response => cases r <;> rfl
  case dec => cases o <;> rfl
  case unused => cases st <;> decide

/-! ## The codec ports, R58 -/

/-- A Command on the ENC port is a use of that port (R60, log 14). -/
theorem runCommand_enc (h : s.port = .enc) : runCommand tag payload s = encPort tag payload s := by
  simp only [runCommand, h]

/-- On the DEC port a well-formed Command is what its own bytes decode to. -/
theorem runCommand_dec (h : s.port = .dec) (hwf : rawWellFormed tag payload = true) :
    runCommand tag payload s = .next (output (.dec (.ok tag payload)) s) := by
  have hdecode : decodeRaw (encodeRaw tag payload).opcode (encodeRaw tag payload).param? = .ok (tag, payload) :=
    (decodeRaw_encodeRaw tag payload).trans (by rw [and_maskOf_of_wellFormed hwf])
  simp only [runCommand, h, decPort, hdecode]

/-- Settles O12: the Command is the presented one with its unused payload bits cleared, which ENCODE does itself. -/
theorem encPortPutsOutEncode : Obligations.EncPortPutsOutEncode := by
  intro tag payload es s
  rw [step_of_instr (ev := .enc tag payload) (rest := es) rfl rfl, exec_of_raw (raw_commandOf tag payload),
    runCommand_enc rfl, encPort, encodeRaw_and_maskOf]
  rfl

/-- DECODE's errors are those of the command with its fields. -/
theorem decodeCommand_of_error {opcode : Byte} {param : Option Byte} {e : DecodeError}
    (h : decodeRaw opcode param = .error e) : decodeCommand opcode param = .error e := by
  rw [decodeCommand, h]
  rfl

theorem step_of_decError {opcode : Byte} {param : Option Byte} {o : DecOut} {es : List Event}
    (h : fetch (.dec opcode param) = .decError o) :
    step { s with events := .dec opcode param :: es } =
      .next { s with events := es, port := .dec, outputs := s.outputs ++ [.dec o] } := by
  simp only [step, h]
  rfl

/-- Settles O13: an accepted input is a well-formed Command, whose own bytes decode to it again; an error is put out as
it is fetched. -/
theorem decPortPutsOutDecode : Obligations.DecPortPutsOutDecode := by
  intro opcode param es s
  refine ⟨fun tag payload h => ?command, fun h => ?unknown, fun h => ?reserved⟩
  case command =>
    obtain ⟨-, hwf⟩ := decodeRaw_eq_ok h
    have hfetch : fetch (.dec opcode param) = .instr .dec (commandOf tag payload) :=
      fetch_dec (by rw [decodeCommand, h]; rfl)
    rw [step_of_instr (rest := es) rfl hfetch, exec_of_raw (raw_commandOf_of_wellFormed hwf), runCommand_dec rfl hwf]
    rfl
  case unknown => exact step_of_decError (by simp only [fetch, decodeCommand_of_error h])
  case reserved => exact step_of_decError (by simp only [fetch, decodeCommand_of_error h])

/-! ## A named Command, R60 -/

/-- Settles O18: a command runs its raw Command, which on a client port is SEND_CMD's run. -/
theorem namedCommandIsSendCmd : Obligations.NamedCommandIsSendCmd := by
  intro i tag payload s h
  rw [exec_of_raw h]
  refine ⟨fun k hp => ?client, fun hp => ?lifecycle⟩
  case client =>
    simp only [runCommand, hp]
    exact (exec_toInstr (.sendCmd tag payload) s).symm
  case lifecycle => simp only [runCommand, hp]

/-! ## The bus port, R59 -/

/-- The signals stand for the operation they were emitted with. -/
theorem op_signals (idle : Byte) (op : BusOp) : (op.signals idle).op = op := by
  cases op <;> rfl

/-- The signals are those of the operation they stand for. -/
theorem signals_op (sig : BusOut) : sig.op.signals sig.wdata = sig := by
  have hkind : (Kind.ofBit sig.kind).bit = sig.kind := Kind.bit_ofBit sig.kind
  cases h : Kind.ofBit sig.kind <;> rw [h] at hkind <;> simp only [BusOut.op, h, BusOp.signals, hkind]

/-- Settles O55: an operation and its signals determine each other, and `bus_ok` says which answer is meant. -/
theorem busPortSignals : Obligations.BusPortSignals := fun _ _ _ any _ =>
  ⟨rfl, rfl, op_signals any, signals_op, rfl, rfl, rfl, rfl, fun _ => rfl⟩

/-! ## Log events, R59, R99 -/

/-- Settles O56: a log event is put out by a micro-step of ATTACH, and names that step. -/
theorem logEventsNameTheirStep : Obligations.LogEventsNameTheirStep := by
  intro s s' hlog h
  refine step_induction (P := LogInv) h hlog ?serve ?present ?micro ?enc ?dec
  case serve => exact fun _ _ _ ht => ht
  case present => exact fun _ _ _ _ _ ht => ht
  case micro => exact fun _ _ _ hc ht => hc.logInv ht
  case enc => exact fun _ _ ht => ht.output rfl
  case dec => exact fun _ _ ht => ht.output rfl

/-! ## What is no request, R55, R56, R112 -/

theorem accept_notARequest (h : r.acceptedOn p = false ∨ p.existsIn s.nclient = false) :
    accept p r s = .refused .notARequest := by
  have hno : (r.acceptedOn p && p.existsIn s.nclient) = false := Bool.and_eq_false_iff.2 h
  rw [accept, hno, require_false]

theorem accept_portBusy (ha : r.acceptedOn p = true) (hx : p.existsIn s.nclient = true)
    (hf : flightOn p s.flights ≠ none) : accept p r s = .refused .portBusy := by
  have hbusy : (flightOn p s.flights).isNone = false := by rwa [Option.isNone_eq_false_iff, Option.isSome_iff_ne_none]
  rw [accept, ha, hx, Bool.and_self, require_true, hbusy, require_false]

theorem accept_detachUnderTransfer (ha : Request.acceptedOn .detach p = true) (hi : idle p s)
    (ht : transferInFlight s.flights = true) : accept p .detach s = .refused .detachUnderTransfer := by
  obtain ⟨hx, hf⟩ := hi
  simp [accept, ha, hx, hf, ht]

/-- What is refused as it is presented is not run. -/
theorem runRequest_refused {why : Refusal} (h : accept s.port r s = .refused why) :
    runRequest r s = .refused why := by
  rw [runRequest, h, thenStep_refused]

/-- A request has the `op` of the record it is decoded from (R56). -/
theorem record_op_of_decodeRecord (h : decodeRecord rec = .ok q) : q.record.op = rec.op := by
  simp only [decodeRecord] at h
  split at h <;> cases h
  all_goals
    rename_i hop
    exact BitVec.eq_of_toNat_eq hop.symm

/-- The `op`s below 2 belong on the lifecycle port, those from 2 to 5 on a client port (R56). -/
theorem op_of_acceptedOn (h : q.acceptedOn p = true) :
    (q.record.op.toNat < 2 ∧ p = .lifecycle) ∨
      (2 ≤ q.record.op.toNat ∧ q.record.op.toNat < 6 ∧ ∃ k, p = .client k) := by
  cases q with
  | attach | detach =>
    cases p with
    | lifecycle => exact .inl ⟨by simp [Request.record], rfl⟩
    | client | enc | dec => cases h
  | openSession | closeSession | transact | sendCmd =>
    cases p with
    | client k => exact .inr ⟨by simp [Request.record], by simp [Request.record], k, rfl⟩
    | lifecycle | enc | dec => cases h

theorem decodeRequest_eq_ok (h : decodeRequest p rec = .ok q) :
    decodeRecord rec = .ok q ∧ q.acceptedOn p = true := by
  simp only [decodeRequest] at h
  split at h
  · split at h <;> cases h
    exact ⟨‹_›, ‹_›⟩
  · cases h

/-- The record's `op` is no request's, or one of the other kind of port (R56). -/
abbrev foreignOp (p : Port) (rec : RequestRecord) : Prop :=
  6 ≤ rec.op.toNat ∨ (rec.op.toNat < 2 ∧ p ≠ .lifecycle) ∨
    (2 ≤ rec.op.toNat ∧ rec.op.toNat < 6 ∧ ∀ k, p ≠ .client k)

theorem not_foreignOp_of_decodeRequest (h : decodeRequest p rec = .ok q) : ¬ foreignOp p rec := by
  obtain ⟨hrec, hacc⟩ := decodeRequest_eq_ok h
  have hop := op_of_acceptedOn hacc
  rw [record_op_of_decodeRecord hrec] at hop
  rcases hop with ⟨hlt, hp⟩ | ⟨hge, hlt, k, hp⟩
  · rintro (hbig | ⟨-, hno⟩ | ⟨hge, -⟩)
    · omega
    · exact hno hp
    · omega
  · rintro (hbig | ⟨hlt', -⟩ | ⟨-, -, hno⟩)
    · omega
    · omega
    · exact hno k hp

/-- A record on port `p` at the head of the events is refused, whether it is run or only presented. -/
abbrev presentingRefused (p : Port) (rec : RequestRecord) (es : List Event) (s : State) (why : Refusal) : Prop :=
  step { s with events := .run p rec :: es } = .refused why ∧
    step { s with events := .issue p rec :: es } = .refused why

theorem presentingRefused_of_error {e : DecodeError} (h : decodeRequest p rec = .error e) (es : List Event)
    (s : State) : presentingRefused p rec es s .notARequest := by
  constructor <;> simp only [step, fetch, h]

theorem presentingRefused_of_accept {why : Refusal} {es : List Event} (h : decodeRequest p rec = .ok q)
    (hacc : accept p q { s with events := es, port := p } = .refused why) : presentingRefused p rec es s why := by
  constructor
  · rw [step_of_instr rfl (fetch_run h), exec_toInstr]
    exact runRequest_refused hacc
  · simp only [step, fetch, h]
    exact hacc

theorem presentingRefused_notARequest (es : List Event)
    (h : foreignOp p rec ∨ ∃ k, p = .client k ∧ s.nclient ≤ k) : presentingRefused p rec es s .notARequest := by
  cases hq : decodeRequest p rec with
  | error e => exact presentingRefused_of_error hq es s
  | ok q =>
    obtain ⟨k, rfl, hk⟩ := h.resolve_left (not_foreignOp_of_decodeRequest hq)
    exact presentingRefused_of_accept hq (accept_notARequest (.inr (decide_eq_false (Nat.not_lt.2 hk))))

/-- Settles O28: run or only presented, a request meets `accept`, whose three conditions fail one by one. -/
theorem breachesOnPortsAreRefused : Obligations.BreachesOnPortsAreRefused := by
  intro r s
  simp only [exec_toInstr]
  refine ⟨fun h => runRequest_refused (accept_notARequest h),
    fun ha hx hf => runRequest_refused (accept_portBusy ha hx hf),
    fun hp hi ht => ?detach, fun p rec es => ⟨fun h => ?foreign, fun hq hx hf => ?busy, fun hq hi ht => ?under⟩⟩
  case detach =>
    exact (exec_toInstr .detach s).trans
      (runRequest_refused (accept_detachUnderTransfer (hp ▸ rfl) (hp ▸ hi) ht))
  case foreign => exact presentingRefused_notARequest es (by simpa only [foreignOp, or_assoc] using h)
  case busy => exact presentingRefused_of_accept hq (accept_portBusy (decodeRequest_eq_ok hq).2 hx hf)
  case under =>
    exact presentingRefused_of_accept hq (accept_detachUnderTransfer (decodeRequest_eq_ok hq).2 hi ht)

end Sys2Proof.Machine
end

section
/-! PROOFS. The codec (spec/40_codec.md): what ENCODE gives (R63), that ENCODE and DECODE undo each other but for the
two inputs of R67, the well-formed raw Commands (R69), and the input without a meaning (R68). -/

namespace Sys2Proof

variable {i : Instr} {tag : Tag} {payload : Byte} {opcode : Byte} {param : Option Byte}

/-! ## ENCODE, R63 -/

/-- The opcodes of R48, written out. -/
theorem opcodeOf_eq_getD : ∀ tag : Tag, opcodeOf tag =
    [0x01#8, 0x02#8, 0x04#8, 0x08#8, 0x10#8, 0x20#8, 0x40#8, 0x80#8].getD tag.toNat 0#8 := by
  decide

/-- The masks of R48, written out. -/
theorem maskOf_eq_getD : ∀ tag : Tag, maskOf tag =
    [0x00#8, 0x00#8, 0x03#8, 0x07#8, 0x0C#8, 0x1C#8, 0x1F#8, 0x3F#8].getD tag.toNat 0#8 := by
  decide

/-- Settles O1: ENCODE's fields are R48's opcode and the masked payload, which is a well-formed one itself. -/
theorem encodeGivesOpcodeAndMaskedPayload : Obligations.EncodeGivesOpcodeAndMaskedPayload := fun tag payload =>
  ⟨opcodeOf_eq_getD tag, rfl, congrArg (payload &&& ·) (maskOf_eq_getD tag), and_maskOf_of_wellFormed⟩

/-- ENCODE gives a `CMD0` command no parameter. -/
theorem encodeRaw_param_cmd0 (h : hasParam tag = false) (payload : Byte) : (encodeRaw tag payload).param? = none := by
  simp [EncOut.param?, encodeRaw, h]

/-- ENCODE gives a `CMD1` command its masked payload. -/
theorem encodeRaw_param_cmd1 (h : hasParam tag = true) (payload : Byte) :
    (encodeRaw tag payload).param? = some (payload &&& maskOf tag) := by
  simp [EncOut.param?, encodeRaw, h]

/-! ## ENCODE after DECODE, R67, R69 -/

/-- The `CMD0` opcodes are 0x01 and 0x02 (R48). -/
theorem opcodeOf_cmd0_iff : ∀ tag : Tag,
    opcodeOf tag = 0x01#8 ∨ opcodeOf tag = 0x02#8 ↔ hasParam tag = false := by
  decide

/-- The parameter DECODE accepts is the one ENCODE gives back, or the zero byte after a `CMD0` opcode (R67). -/
theorem param_of_decodeRaw_eq_ok (h : decodeRaw opcode param = .ok (tag, payload)) :
    param = (encodeRaw tag payload).param? ∨ (param = some 0x00#8 ∧ hasParam tag = false) := by
  obtain ⟨rfl, hwf⟩ := decodeRaw_eq_ok h
  cases ht : hasParam tag with
  | false =>
    rw [decodeRaw_cmd0 ht] at h
    cases param with
    | none => exact .inl (encodeRaw_param_cmd0 ht payload).symm
    | some b =>
      split at h
      case isTrue hb => exact .inr ⟨congrArg some hb, rfl⟩
      case isFalse => cases h
  | true =>
    cases param with
    | none => simp [decodeRaw_cmd1_none ht] at h
    | some b =>
      rw [decodeRaw_cmd1 ht] at h
      split at h <;> cases h
      exact .inl (by rw [encodeRaw_param_cmd1 ht, and_maskOf_of_wellFormed hwf])

/-- An accepted input re-encodes to itself, unless it is one of the two of R67. -/
theorem encodeRaw_param_eq_iff (h : decodeRaw opcode param = .ok (tag, payload)) :
    (encodeRaw tag payload).param? = param ↔ ¬ (param = some 0x00#8 ∧ hasParam tag = false) := by
  constructor
  · rintro hparam ⟨hzero, ht⟩
    rw [encodeRaw_param_cmd0 ht, hzero] at hparam
    cases hparam
  · exact fun hno => ((param_of_decodeRaw_eq_ok h).resolve_right hno).symm

/-- A tag has as many well-formed payloads as its mask has subsets. -/
theorem wellFormed_count : ∀ tag : Tag,
    (List.range 256).countP (fun b => rawWellFormed tag (BitVec.ofNat 8 b)) = 2 ^ popcount (maskOf tag) := by
  decide +kernel

/-- Settles O2: ENCODE after DECODE changes the parameter only where it is the zero byte of a `CMD0` opcode, and 122 is
the sum of `2 ^ popcount` over the masks. -/
theorem codecRoundTrip : Obligations.CodecRoundTrip := by
  refine ⟨fun tag payload hwf => ?roundTrip, ?count, fun opcode param tag payload h => ?converse⟩
  case roundTrip => exact (decodeRaw_encodeRaw tag payload).trans (by rw [and_maskOf_of_wellFormed hwf])
  case count =>
    simp only [wellFormed_count]
    decide
  case converse =>
    obtain ⟨rfl, -⟩ := decodeRaw_eq_ok h
    rw [opcodeOf_cmd0_iff]
    exact ⟨rfl, encodeRaw_param_eq_iff h, fun hzero => encodeRaw_param_cmd0 hzero.2 payload⟩

/-! ## The raw Command of a command, R49, R50 -/

/-- A command's raw Command is well-formed (R52). -/
theorem wellFormed_of_raw (h : i.raw? = some (tag, payload)) : rawWellFormed tag payload = true := by
  have hmasked := masked_has_no_reserved tag payload
  rw [and_maskOf_of_raw h] at hmasked
  exact beq_iff_eq.2 hmasked

/-- ENCODE of a command's raw Command: nothing is masked away. -/
theorem encodeRaw_of_raw (h : i.raw? = some (tag, payload)) :
    encodeRaw tag payload = ⟨opcodeOf tag, hasParam tag, payload⟩ := by
  rw [encodeRaw, and_maskOf_of_raw h]

section

open Sys2Proof.Expected

theorem raw_clearDisplay : Instr.clearDisplay.raw? = some (0#3, 0x00#8) := rfl

theorem raw_returnHome : Instr.returnHome.raw? = some (1#3, 0x00#8) := rfl

theorem raw_entryModeSet (i s : Bool) : (Instr.entryModeSet i s).raw? = some (2#3, bits3 i s false 0) := by
  revert i s
  decide

theorem raw_displayOnOffCtl (d c b : Bool) : (Instr.displayOnOffCtl d c b).raw? = some (3#3, bits3 d c b 0) := by
  revert d c b
  decide

theorem raw_cursorOrDisplayShift (r s : Bool) :
    (Instr.cursorOrDisplayShift r s).raw? = some (4#3, bits3 r s false 2) := by
  revert r s
  decide

theorem raw_functionSet (f n d : Bool) : (Instr.functionSet f n d).raw? = some (5#3, bits3 f n d 2) := by
  revert f n d
  decide

theorem raw_setCgramAddress (a : BitVec 5) :
    (Instr.setCgramAddress a).raw? = some (6#3, BitVec.ofNat 8 a.toNat) := by
  rw [BitVec.ofNat_toNat]
  rfl

theorem raw_setDdramAddress (a : BitVec 6) :
    (Instr.setDdramAddress a).raw? = some (7#3, BitVec.ofNat 8 a.toNat) := by
  rw [BitVec.ofNat_toNat]
  rfl

end

/-! ## The input without a meaning, R68 -/

/-- The other six opcodes are those of the `CMD1` tags (R48). -/
theorem opcodeOf_cmd1_of_mem : ∀ opcode ∈ [0x04#8, 0x08#8, 0x10#8, 0x20#8, 0x40#8, 0x80#8],
    ∃ tag : Tag, opcode = opcodeOf tag ∧ hasParam tag = true := by
  decide

end Sys2Proof

namespace Sys2Proof.Machine

variable {i : Instr} {tag : Tag} {payload : Byte} {s : State}

theorem step_of_refuse {ev : Event} {rest : List Event} {why : Refusal} (he : s.events = ev :: rest)
    (hf : fetch ev = .refuse why) : step s = .refused why := by
  simp only [step, he, hf]

/-- Settles O6: DECODE of a `CMD1` opcode misses its parameter, so the use of the port is refused as it is fetched. -/
theorem missingParameterIsRefused : Obligations.MissingParameterIsRefused := by
  intro opcode hopcode es s
  obtain ⟨tag, rfl, htag⟩ := opcodeOf_cmd1_of_mem opcode hopcode
  have hdecode : decodeRaw (opcodeOf tag) none = .error .missingParameter := decodeRaw_cmd1_none htag
  exact ⟨hdecode, step_of_refuse rfl (by simp only [fetch, decodeCommand_of_error hdecode])⟩

/-! ## The commands on the codec ports, R71 to R78 -/

/-- On the ENC port a command puts out its bytes. -/
theorem exec_enc_of_raw (hp : s.port = .enc) (h : i.raw? = some (tag, payload)) :
    exec i s = .next (output (.enc ⟨opcodeOf tag, hasParam tag, payload⟩) s) := by
  rw [exec_of_raw h, runCommand_enc hp, encPort, encodeRaw_of_raw h]

/-- On the DEC port a command puts out its tag and payload. -/
theorem exec_dec_of_raw (hp : s.port = .dec) (h : i.raw? = some (tag, payload)) :
    exec i s = .next (output (.dec (.ok tag payload)) s) := by
  rw [exec_of_raw h, runCommand_dec hp (wellFormed_of_raw h)]

/-- Settles O14, by the ENC port's rule and each command's raw Command. -/
theorem commandsOnEncPort : Obligations.CommandsOnEncPort := fun _ hp =>
  ⟨exec_enc_of_raw hp raw_clearDisplay, exec_enc_of_raw hp raw_returnHome,
    fun i sh => exec_enc_of_raw hp (raw_entryModeSet i sh),
    fun d c b => exec_enc_of_raw hp (raw_displayOnOffCtl d c b),
    fun r sc => exec_enc_of_raw hp (raw_cursorOrDisplayShift r sc),
    fun f n d => exec_enc_of_raw hp (raw_functionSet f n d),
    fun a => exec_enc_of_raw hp (raw_setCgramAddress a),
    fun a => exec_enc_of_raw hp (raw_setDdramAddress a)⟩

/-- Settles O15, by the DEC port's rule and each command's raw Command. -/
theorem commandsOnDecPort : Obligations.CommandsOnDecPort := fun _ hp =>
  ⟨exec_dec_of_raw hp raw_clearDisplay, exec_dec_of_raw hp raw_returnHome,
    fun i sh => exec_dec_of_raw hp (raw_entryModeSet i sh),
    fun d c b => exec_dec_of_raw hp (raw_displayOnOffCtl d c b),
    fun r sc => exec_dec_of_raw hp (raw_cursorOrDisplayShift r sc),
    fun f n d => exec_dec_of_raw hp (raw_functionSet f n d),
    fun a => exec_dec_of_raw hp (raw_setCgramAddress a),
    fun a => exec_dec_of_raw hp (raw_setDdramAddress a)⟩

end Sys2Proof.Machine
end

section
/-! PROOFS. The Register Transport (spec/41_transport.md): the micro-steps of a transaction (R80), READ and WRITE as
TRANSACT issues them (R82 to R84), the release of TLOCK (R81, R85, R113), and a request run whole as its micro-steps
(D18). -/

namespace Sys2Proof.Machine

open Sys2Proof.Expected

variable {p : Port} {r : Request} {n : Nat} {x : Transfer} {resp : BusResp} {s t : State}

/-! ## The micro-steps T1 to T4, R80 -/

/-- A SEND_CMD writes one byte or two (R45, R94). -/
theorem wire_length (tag : Tag) (payload : Byte) :
    (wire tag payload).length = if 2 ≤ tag.toNat then 2 else 1 := by
  by_cases h : 2 ≤ tag.toNat <;> simp [wire, EncOut.bytes, EncOut.param?, encodeRaw, hasParam, h]

theorem microStep_retarget (hf : flightOn p s.flights = some ⟨r, .xact n .retarget⟩)
    (hx : (transfersOf r)[n]? = some x) : microStep p s = .next (retargetStep p r n x s) := by
  rw [microStep_xact hf, xactStep_retarget hx]

theorem microStep_transfer (hf : flightOn p s.flights = some ⟨r, .xact n .transfer⟩)
    (hx : (transfersOf r)[n]? = some x) : microStep p s = .next (transferStep p r n x s) := by
  rw [microStep_xact hf, xactStep_transfer hx]

theorem microStep_acquire (hf : flightOn p s.flights = some ⟨r, .xact n .acquire⟩)
    (hx : (transfersOf r)[n]? = some x) (hl : s.tlock = .free) :
    microStep p s = .next (advance p r (.xact n .retarget) { s with tlock := .held }) := by
  rw [microStep_xact hf, xactStep_acquire hx, acquireStep_free hl]

theorem microStep_release (hf : flightOn p s.flights = some ⟨r, .xact n (.release resp)⟩)
    (hx : (transfersOf r)[n]? = some x) : microStep p s = afterTransfer p r n x resp (releaseStep s) := by
  rw [microStep_xact hf, xactStep_release hx]

/-- A transfer goes through the handle in DEV, an ATTACH's through its own (R80). -/
theorem handleFor_eq_dev {h : Handle} (hd : s.dev = some h) (hr : ∀ h', r ≠ .attach h') : handleFor r s = h := by
  cases r with
  | attach h' => exact absurd rfl (hr h')
  | _ => simp only [handleFor, hd, Option.getD_some]

theorem transactResponse_eq_answered (resp : BusResp) : transactResponse resp = answered resp := by
  cases resp <;> rfl

theorem initLog_eq_logged (step : LogStep) (reg : Byte) (resp : BusResp) :
    initLog step reg resp = logged step reg resp := by
  cases resp <;> rfl

/-- After a write that did not fail a SEND_CMD goes on if it has another byte to send, and ends with OK if not. -/
theorem sendAfter_of_not_fail {tag : Tag} {payload : Byte} (h : ∀ code, resp ≠ .fail code) :
    sendAfter p tag payload n resp s =
      if n + 1 < (wire tag payload).length then .next (advance p (.sendCmd tag payload) (.xact (n + 1) .acquire) s)
      else .next (respond p .ok s) := by
  cases resp with
  | fail code => exact absurd rfl (h code)
  | okRead b => rfl
  | okWrite => rfl

/-- The opcode byte of a `CMD1` command is followed by its parameter byte (R94). -/
theorem sendAfter_opcode {tag : Tag} {payload : Byte} (h : ∀ code, resp ≠ .fail code) (htag : 2 ≤ tag.toNat) :
    sendAfter p tag payload 0 resp s = .next (advance p (.sendCmd tag payload) (.xact 1 .acquire) s) := by
  rw [sendAfter_of_not_fail h, wire_length, if_pos htag, if_pos (by decide)]

/-- The parameter byte, and the one byte of a `CMD0` command, are the last (R94). -/
theorem sendAfter_last {tag : Tag} {payload : Byte} (h : ∀ code, resp ≠ .fail code) (hlast : n = 1 ∨ tag.toNat < 2) :
    sendAfter p tag payload n resp s = .next (respond p .ok s) := by
  have hdone : ¬ n + 1 < (wire tag payload).length := by
    rw [wire_length]
    split_ifs <;> omega
  rw [sendAfter_of_not_fail h, if_neg hdone]

/-- Settles O29: each micro-step by its rule, and T4 by what the request does with its response. -/
theorem transactionMicroSteps : Obligations.TransactionMicroSteps := by
  intro p r n x s hx
  refine ⟨fun hf hl => microStep_waiting hf hx hl, fun hf hl => microStep_acquire hf hx hl, fun hf => ?retarget,
    fun hf => ⟨handleFor r s, microStep_transfer hf hx, fun h hd hr => handleFor_eq_dev hd hr, ?own⟩,
    fun resp hf => ?release⟩
  case retarget =>
    rw [microStep_retarget hf hx, addressOf_eq_a7Of]
    rfl
  case own =>
    rintro h rfl
    rfl
  case release =>
    rw [microStep_release hf hx]
    refine ⟨?transact, ?send, ?attach⟩
    case transact =>
      rintro kind sel reg value rfl
      rw [← transactResponse_eq_answered]
      rfl
    case send =>
      rintro tag payload rfl
      refine ⟨?fails, fun hok hn htag => ?opcode, fun hok hlast => sendAfter_last hok hlast⟩
      case fails =>
        rintro code rfl
        rfl
      case opcode =>
        subst hn
        exact sendAfter_opcode hok htag
    case attach =>
      rintro h rfl
      have hlast : n + 1 < initTable.length ↔ n < 5 := Nat.add_lt_add_iff_right (k := 1)
      simp only [afterTransfer, attachAfter, hlast, initLog_eq_logged]
      rfl

/-! ## TLOCK is freed, R81, R113 -/

/-- In canonical form a member of the list is the flight of its port. -/
theorem flightOn_of_mem {f : Flight} {fs : List (Port × Flight)} (hs : flightsSorted fs = true) (h : (p, f) ∈ fs) :
    flightOn p fs = some f := by
  cases hf : flightOn p fs with
  | none => exact absurd rfl (mem_clearFlight.1 (clearFlight_of_idle hf ▸ h)).2
  | some g =>
    cases eq_of_mem_of_flightOn hs hf h rfl
    rfl

/-- Where TLOCK is held, some request in flight holds it (R20). -/
theorem TransportInv.exists_holder (h : TransportInv s) (hl : s.tlock = .held) :
    ∃ p r m, flightOn p s.flights = some ⟨r, m⟩ ∧ microFits r m = true ∧ holdsLock m = true := by
  obtain ⟨hwf, hlock, -⟩ := h
  have hpos : 0 < s.flights.countP fun e => holdsLock e.2.micro := by
    rw [lockInv_iff.1 hlock, hl]
    exact Nat.one_pos
  obtain ⟨⟨p, r, m⟩, he, hm⟩ := List.countP_pos_iff.1 hpos
  obtain ⟨-, -, hfit⟩ := hwf.2 _ he
  exact ⟨p, r, m, flightOn_of_mem hwf.1 he, hfit, hm⟩

/-- The hand-back of T4 always goes on and leaves TLOCK as it is. -/
theorem afterTransfer_tlock (p : Port) (resp : BusResp) (s : State) (hx : (transfersOf r)[n]? = some x) :
    ∃ t, afterTransfer p r n x resp s = .next t ∧ t.tlock = s.tlock := by
  cases r with
  | attach h => exact ⟨_, rfl, rfl⟩
  | transact kind sel reg value => exact ⟨_, rfl, rfl⟩
  | sendCmd tag payload =>
    simp only [afterTransfer, sendAfter]
    split
    · exact ⟨_, rfl, rfl⟩
    all_goals split <;> exact ⟨_, rfl, rfl⟩
  | detach | openSession | closeSession => simp [transfersOf] at hx

/-- TLOCK is free after `k` micro-steps of port `p`. -/
def freedAfter (k : Nat) (p : Port) (s : State) : Prop :=
  ∃ t, drive k p s = .next t ∧ t.tlock = .free

theorem freedAfter_succ {k : Nat} (h : microStep p s = .next t) (ht : freedAfter k p t) : freedAfter (k + 1) p s := by
  obtain ⟨u, hu, hfree⟩ := ht
  exact ⟨u, by rw [drive_succ, h, thenStep_next, hu], hfree⟩

theorem freedAfter_of_release (hf : flightOn p s.flights = some ⟨r, .xact n (.release resp)⟩)
    (hx : (transfersOf r)[n]? = some x) : freedAfter 1 p s := by
  obtain ⟨t, ht, hfree⟩ := afterTransfer_tlock p resp (releaseStep s) hx
  exact freedAfter_succ ((microStep_release hf hx).trans ht) ⟨t, rfl, hfree⟩

theorem freedAfter_of_transfer (hf : flightOn p s.flights = some ⟨r, .xact n .transfer⟩)
    (hx : (transfersOf r)[n]? = some x) : freedAfter 2 p s :=
  freedAfter_succ (microStep_transfer hf hx) (freedAfter_of_release (flightOn_setFlight_same ..) hx)

theorem freedAfter_of_retarget (hf : flightOn p s.flights = some ⟨r, .xact n .retarget⟩)
    (hx : (transfersOf r)[n]? = some x) : freedAfter 3 p s :=
  freedAfter_succ (microStep_retarget hf hx) (freedAfter_of_transfer (flightOn_setFlight_same ..) hx)

/-- Settles O43: the holder is at T2, T3 or T4, and none of these waits. -/
theorem heldLockIsFreedWithinThreeSteps : Obligations.HeldLockIsFreedWithinThreeSteps := by
  intro s hs hl
  obtain ⟨p, r, m, hf, hfit, hm⟩ := hs.exists_holder hl
  cases m with
  | start | openS2 | expose => cases hm
  | xact n ph =>
    have hn : n < (transfersOf r).length := of_decide_eq_true hfit
    have hx : (transfersOf r)[n]? = some (transfersOf r)[n] := List.getElem?_eq_getElem hn
    cases ph with
    | acquire => cases hm
    | retarget => exact ⟨p, 3, (freedAfter_of_retarget hf hx).imp fun _ ht => ⟨by decide, ht⟩⟩
    | transfer => exact ⟨p, 2, (freedAfter_of_transfer hf hx).imp fun _ ht => ⟨by decide, ht⟩⟩
    | release resp => exact ⟨p, 1, (freedAfter_of_release hf hx).imp fun _ ht => ⟨by decide, ht⟩⟩

/-! ## READ and WRITE as TRANSACT issues them, R82 to R84, R93 -/

/-- A request whose first micro-step leads to its first transaction waits there while TLOCK is held. -/
theorem runRequest_waits (hacc : r.acceptedOn s.port = true) (hi : idle s.port s) (hne : r ≠ .detach)
    (hstart : startStep s.port r (advance s.port r .start s) = .next (advance s.port r (.xact 0 .acquire) s))
    (hx : (transfersOf r)[0]? = some x) (hl : s.tlock = .held) :
    runRequest r s = .next (waitingAtT1 s.port r s) := by
  rw [runRequest_eq hacc hi (.inl hne), hstart, thenStep_next]
  exact drive_waiting (s := advance s.port r (.xact 0 .acquire) s) 25 (flightOn_setFlight_same ..) hx hl

variable {k : Nat} {kind : Kind} {sel : Chip} {reg : Byte} {value : WriteValue}

theorem exec_transact_waits (hp : s.port = .client k) (hi : idle (.client k) s) (hh : s.held = true)
    (hl : s.tlock = .held) :
    exec (.transact kind sel reg value) s = .next (waitingAtT1 (.client k) (.transact kind sel reg value) s) := by
  obtain ⟨x, hx⟩ : ∃ x, (transfersOf (.transact kind sel reg value))[0]? = some x := by
    cases kind <;> exact ⟨_, rfl⟩
  rw [← hp] at hi ⊢
  refine runRequest_waits (by rw [hp]; rfl) hi nofun ?_ hx hl
  rw [startStep_transact s.port (s := advance ..) hh, advance_advance]

/-- A TRANSACT Read on a free lock is one read, answered with its outcome. -/
theorem exec_read (hp : s.port = .client k) (hi : idle (.client k) s) (hh : s.held = true) (hl : s.tlock = .free) :
    exec (.transact .read sel reg value) s =
      .next (said (.client k) (answered (readAnswer (addressOf sel) reg s))
        (didRead (handleOf s) (addressOf sel) reg s)) := by
  rw [← hp] at hi ⊢
  rw [addressOf_eq_a7Of, ← transactResponse_eq_answered]
  exact runRequest_transact (r := .transact .read sel reg value) (x := readTransfer sel reg) rfl rfl
    (by rw [hp]; rfl) hi hh hl

/-- A TRANSACT Write on a free lock is one write of the low byte, answered with its outcome. -/
theorem exec_write (hp : s.port = .client k) (hi : idle (.client k) s) (hh : s.held = true) (hl : s.tlock = .free) :
    exec (.transact .write sel reg value) s =
      .next (said (.client k) (answered (writeAnswer (addressOf sel) reg (value.extractLsb' 0 8) s))
        (wrote (handleOf s) (addressOf sel) reg (value.extractLsb' 0 8) s)) := by
  rw [← hp] at hi ⊢
  rw [addressOf_eq_a7Of, ← lowByte_eq_extractLsb', ← transactResponse_eq_answered]
  exact runRequest_transact (r := .transact .write sel reg value) (x := writeTransfer sel reg value) rfl rfl
    (by rw [hp]; rfl) hi hh hl

/-- Whatever the responder is, it answers with the signals of R59. -/
theorem answerTo_eq_respOf (rsp : Responder) (d : Nat) (op : BusOp) : ∃ a, answerTo rsp d op = respOf op a := by
  unfold answerTo
  split
  · exact ⟨_, rfl⟩
  · exact ⟨_, rfl⟩
  · cases op with
    | read a7 reg => exact ⟨.ok _, rfl⟩
    | write a7 reg b => exact ⟨.ok b, rfl⟩

/-- A read is answered with a byte or fails. -/
theorem readAnswer_cases (a7 : BusAddr) (reg : Byte) (s : State) :
    (∃ b, readAnswer a7 reg s = .okRead b) ∨ ∃ code, readAnswer a7 reg s = .fail code := by
  obtain ⟨a, ha⟩ := answerTo_eq_respOf s.responder s.draws (.read a7 reg)
  cases a with
  | ok b => exact .inl ⟨b, ha⟩
  | fail code => exact .inr ⟨code, ha⟩

/-- A write is accepted or fails. -/
theorem writeAnswer_cases (a7 : BusAddr) (reg b : Byte) (s : State) :
    writeAnswer a7 reg b s = .okWrite ∨ ∃ code, writeAnswer a7 reg b s = .fail code := by
  obtain ⟨a, ha⟩ := answerTo_eq_respOf s.responder s.draws (.write a7 reg b)
  cases a with
  | ok _ => exact .inl ha
  | fail code => exact .inr ⟨code, ha⟩

/-- Settles O20: the read's outcome, byte or code, is the response. -/
theorem transactReadResult : Obligations.TransactReadResult := by
  intro k sel reg value s hp hi hh
  refine ⟨fun hl => ?_, exec_transact_waits hp hi hh⟩
  rw [exec_read hp hi hh hl]
  rcases readAnswer_cases (addressOf sel) reg s with ⟨b, hb⟩ | ⟨code, hcode⟩
  · exact .inl ⟨b, hb, by rw [hb]; rfl⟩
  · exact .inr ⟨code, hcode, by rw [hcode]; rfl⟩

/-- Settles O21: the write's outcome, OK or code, is the response. -/
theorem transactWriteResult : Obligations.TransactWriteResult := by
  intro k sel reg value s hp hi hh
  refine ⟨fun hl => ?_, exec_transact_waits hp hi hh⟩
  rw [exec_write hp hi hh hl]
  rcases writeAnswer_cases (addressOf sel) reg (value.extractLsb' 0 8) s with hok | ⟨code, hcode⟩
  · exact .inl ⟨hok, by rw [hok]; rfl⟩
  · exact .inr ⟨code, hcode, by rw [hcode]; rfl⟩

/-! ## After a failed read, R85 -/

/-- Settles O51: the failed read is one whole transaction, which leaves the lock free and the session open, so the write
is one too and finds the next answer. -/
theorem failedReadReleasesTheLock : Obligations.FailedReadReleasesTheLock := by
  intro k j h code b sel sel' reg reg' value value' s hk hj hh hl hdev hrsp
  have hread := exec_read (s := { s with port := .client k }) (sel := sel) (reg := reg) (value := value) rfl hk hh hl
  have hfail : readAnswer (addressOf sel) reg { s with port := .client k } = .fail code := by
    simp only [readAnswer, hrsp]
    rfl
  have hhandle : handleOf { s with port := .client k } = h := by simp only [handleOf, hdev, Option.getD_some]
  rw [hfail, hhandle] at hread
  have hwrite := exec_write (k := j) (sel := sel') (reg := reg') (value := value')
    (s := { said (.client k) (answered (.fail code)) (didRead h (addressOf sel) reg { s with port := .client k })
      with port := .client j }) rfl hj hh hl
  refine ⟨_, _, hread, hl, hh, rfl, ?read, hwrite, ?write⟩
  case read =>
    simp only [said, didRead, hrsp, List.append_assoc]
    rfl
  case write =>
    simp only [said, didRead, wrote, writeAnswer, handleOf, hdev, hrsp, List.append_assoc]
    rfl

/-! ## A request run whole, D18 -/

/-- The state with other events to come. -/
def State.withEvents (es : List Event) (s : State) : State :=
  { s with events := es }

@[simp] theorem withEvents_dev (es : List Event) (s : State) : (s.withEvents es).dev = s.dev := rfl
@[simp] theorem withEvents_tlock (es : List Event) (s : State) : (s.withEvents es).tlock = s.tlock := rfl

/-- The next state of an outcome, with other events to come. -/
def nextWithEvents (es : List Event) (o : StepOutcome) : StepOutcome :=
  thenStep o fun s => .next (s.withEvents es)

theorem require_nextWithEvents {es : List Event} (c : Bool) (why : Refusal) {o o' : StepOutcome}
    (h : o' = nextWithEvents es o) : require c why o' = nextWithEvents es (require c why o) := by
  cases c with
  | false => rfl
  | true => exact h

theorem startStep_withEvents (es : List Event) (p : Port) (r : Request) (s : State) :
    startStep p r (s.withEvents es) = nextWithEvents es (startStep p r s) := by
  cases r with
  | attach | detach | closeSession | sendCmd => exact require_nextWithEvents _ _ rfl
  | transact => exact require_nextWithEvents _ _ (require_nextWithEvents _ _ rfl)
  | openSession =>
    simp only [startStep, openS1, apply_ite (nextWithEvents es)]
    rfl

theorem openS2_withEvents (es : List Event) (p : Port) (s : State) :
    openS2 p (s.withEvents es) = nextWithEvents es (openS2 p s) := by
  simp only [openS2, withEvents_dev]
  split <;> rfl

theorem acquireStep_withEvents (es : List Event) (p : Port) (r : Request) (n : Nat) (s : State) :
    acquireStep p r n (s.withEvents es) = (acquireStep p r n s).withEvents es := by
  simp only [acquireStep, withEvents_tlock]
  split <;> rfl

theorem transferStep_withEvents (es : List Event) (p : Port) (r : Request) (n : Nat) (x : Transfer) (s : State) :
    transferStep p r n x (s.withEvents es) = (transferStep p r n x s).withEvents es := by
  cases r <;> rfl

theorem afterTransfer_withEvents (es : List Event) (p : Port) (r : Request) (n : Nat) (x : Transfer) (resp : BusResp)
    (s : State) : afterTransfer p r n x resp (s.withEvents es) = nextWithEvents es (afterTransfer p r n x resp s) := by
  cases r with
  | attach | transact | detach | openSession | closeSession => rfl
  | sendCmd tag payload =>
    simp only [afterTransfer, sendAfter]
    split
    · rfl
    all_goals split <;> rfl

theorem xactStep_withEvents (es : List Event) (p : Port) (r : Request) (n : Nat) (ph : Phase) (s : State) :
    xactStep p r n ph (s.withEvents es) = nextWithEvents es (xactStep p r n ph s) := by
  cases hx : (transfersOf r)[n]? with
  | none => simp only [xactStep, hx, nextWithEvents, thenStep_refused]
  | some x =>
    cases ph with
    | acquire => rw [xactStep_acquire hx, xactStep_acquire hx, acquireStep_withEvents]; rfl
    | retarget => rw [xactStep_retarget hx, xactStep_retarget hx]; rfl
    | transfer => rw [xactStep_transfer hx, xactStep_transfer hx, transferStep_withEvents]; rfl
    | release resp =>
      rw [xactStep_release hx, xactStep_release hx]
      exact afterTransfer_withEvents es p r n x resp (releaseStep s)

/-- No micro-step looks at the events to come. -/
theorem microStep_withEvents (es : List Event) (p : Port) (s : State) :
    microStep p (s.withEvents es) = nextWithEvents es (microStep p s) := by
  have hflights : (s.withEvents es).flights = s.flights := rfl
  unfold microStep
  rw [hflights]
  split
  · rfl
  · split
    · exact startStep_withEvents ..
    · exact xactStep_withEvents ..
    · split
      · exact openS2_withEvents ..
      · rfl
    · split <;> rfl

theorem accept_withEvents (es : List Event) (p : Port) (r : Request) (s : State) :
    accept p r (s.withEvents es) = nextWithEvents es (accept p r s) :=
  require_nextWithEvents _ _ (require_nextWithEvents _ _ (require_nextWithEvents _ _ rfl))

/-- A micro-step neither takes events nor changes the port served. -/
theorem MicroCase.schedule_eq (h : MicroCase p s t) : t.port = s.port ∧ t.events = s.events := by
  cases h <;> exact ⟨rfl, rfl⟩

theorem step_grant (es : List Event) (hp : s.port = p) :
    step (s.withEvents (.grant p :: es)) = microStep p (s.withEvents es) := by
  subst hp
  rfl

/-- Granting a request its micro-steps one by one is driving it. -/
theorem runSteps_grants (k : Nat) (hp : s.port = p) :
    runSteps k (s.withEvents (List.replicate k (.grant p) ++ s.events)) = drive k p s := by
  induction k generalizing s with
  | zero => rfl
  | succ k ih =>
    rw [List.replicate_succ, List.cons_append, runSteps, step_grant _ hp, microStep_withEvents, drive_succ]
    cases hm : microStep p s with
    | fault e => exact nomatch e
    | refused why => rfl
    | next t =>
      obtain ⟨hport, hevents⟩ := (microStep_cases hm).schedule_eq
      simp only [nextWithEvents, thenStep_next, ← hevents]
      exact ih (hport.trans hp)

/-- A request presented and granted its micro-steps does what it does presented and driven. -/
theorem present_grants (k : Nat) (r : Request) (hp : s.port = p) :
    thenStep (accept p r (s.withEvents (List.replicate k (.grant p) ++ s.events))) (runSteps k) =
      thenStep (accept p r s) (drive k p) := by
  rw [accept_withEvents]
  cases ha : accept p r s with
  | fault e => exact nomatch e
  | refused why => rfl
  | next t =>
    obtain ⟨rfl, -⟩ := accept_eq_next ha
    exact runSteps_grants (s := advance p r .start s) k hp

theorem step_issue {rec : RequestRecord} (h : decodeRequest p rec = .ok r) (es : List Event) (s : State) :
    step { s with events := .issue p rec :: es } = accept p r { s with events := es, port := p } := by
  simp only [step, fetch, h]
  rfl

/-- Settles O34: a record that is no request is refused either way; a request is presented alike, and then granted its
micro-steps or driven through them. -/
theorem wholeRunIsItsMicroSteps : Obligations.WholeRunIsItsMicroSteps := by
  intro p rec es s
  rw [runFrom, runSteps]
  cases hq : decodeRequest p rec with
  | error e =>
    obtain ⟨hrun, -⟩ := presentingRefused_of_error hq es s
    obtain ⟨-, hissue⟩ := presentingRefused_of_error hq (List.replicate microBudget (.grant p) ++ es) s
    rw [hrun, hissue, thenStep_refused]
  | ok r =>
    rw [step_issue hq, step_of_instr rfl (fetch_run hq), exec_toInstr]
    exact present_grants (s := { s with events := es, port := p }) microBudget r rfl

end Sys2Proof.Machine
end

section
/-! PROOFS. The session (spec/42_session.md): the first micro-steps, `held` under a transaction (R92), OPEN_SESSION and
CLOSE_SESSION by micro-step and run whole (R88, R89, R92), and transfers on a closed session (R93, R94). -/

namespace Sys2Proof.Machine

open Sys2Proof.Expected

variable {p : Port} {r : Request} {n : Nat} {k : Nat} {h : Handle} {why : Refusal} {x : Response} {s t : State}

/-! ## The first micro-steps of ATTACH, TRANSACT and SEND_CMD, R93, R94, R97 -/

/-- The requests that R93 and R94 ask an open session for. -/
abbrev isClientTransfer (r : Request) : Prop :=
  (∃ kind sel reg value, r = .transact kind sel reg value) ∨ ∃ tag payload, r = .sendCmd tag payload

theorem startStep_clientTransfer (hr : isClientTransfer r) (p : Port) (s : State) :
    startStep p r s = require s.held .transferWhileClosed (.next (advance p r (.xact 0 .acquire) s)) := by
  rcases hr with ⟨kind, sel, reg, value, rfl⟩ | ⟨tag, payload, rfl⟩
  · simp only [startStep, transactStart, valueAccepted_eq_true, require_true]
  · rfl

theorem startStep_clientTransfer_open (hr : isClientTransfer r) (p : Port) (hh : s.held = true) :
    startStep p r s = .next (advance p r (.xact 0 .acquire) s) := by
  rw [startStep_clientTransfer hr, hh, require_true]

theorem startStep_clientTransfer_closed (hr : isClientTransfer r) (p : Port) (hh : s.held = false) :
    startStep p r s = .refused .transferWhileClosed := by
  rw [startStep_clientTransfer hr, hh, require_false]

theorem startStep_attach_absent (p : Port) (h : Handle) (hd : s.dev = none) :
    startStep p (.attach h) s = .next (advance p (.attach h) (.xact 0 .acquire) s) := by
  simp only [startStep, attachStart, hd, Option.isNone_none, require_true]

theorem startStep_attach_present {h' : Handle} (p : Port) (h : Handle) (hd : s.dev = some h') :
    startStep p (.attach h) s = .refused .attachWhileAttached := by
  simp only [startStep, attachStart, hd, Option.isNone_some, require_false]

/-- Settles O57: the `require` of each request by its value, and A7 as it is. -/
theorem startAndExposeMicroSteps : Obligations.StartAndExposeMicroSteps := by
  intro p r h s
  refine ⟨fun hf hr => ?transfer, fun hf => ?attach, fun hf => microStep_expose hf⟩
  case transfer =>
    rw [microStep_start hf]
    exact ⟨startStep_clientTransfer_open hr p, startStep_clientTransfer_closed hr p⟩
  case attach =>
    rw [microStep_start hf]
    exact ⟨startStep_attach_absent p h, fun _ => startStep_attach_present p h⟩

/-! ## A request in flight and `held`, R92 -/

/-- The state with `held` at `b`. -/
def State.withHeld (b : Bool) (s : State) : State :=
  { s with held := b }

@[simp] theorem withHeld_held (b : Bool) (s : State) : (s.withHeld b).held = b := rfl
@[simp] theorem withHeld_withHeld (b c : Bool) (s : State) : (s.withHeld b).withHeld c = s.withHeld c := rfl
@[simp] theorem withHeld_advance (b : Bool) (p : Port) (r : Request) (m : Micro) (s : State) :
    (advance p r m s).withHeld b = advance p r m (s.withHeld b) := rfl

theorem withHeld_of_held {b : Bool} (hh : s.held = b) : s.withHeld b = s := by
  rw [State.withHeld, ← hh]

/-- The next state of an outcome, with `held` at `b`. -/
def nextWithHeld (b : Bool) (o : StepOutcome) : StepOutcome :=
  thenStep o fun t => .next (t.withHeld b)

theorem acquireStep_withHeld (b : Bool) (p : Port) (r : Request) (n : Nat) (s : State) :
    acquireStep p r n (s.withHeld b) = (acquireStep p r n s).withHeld b := by
  cases hl : s.tlock with
  | free => rw [acquireStep_free hl, acquireStep_free (s := s.withHeld b) hl]; rfl
  | held => rw [acquireStep_held hl, acquireStep_held (s := s.withHeld b) hl]

theorem transferStep_withHeld (b : Bool) (p : Port) (r : Request) (n : Nat) (x : Transfer) (s : State) :
    transferStep p r n x (s.withHeld b) = (transferStep p r n x s).withHeld b := by
  cases r <;> rfl

theorem afterTransfer_withHeld (b : Bool) (p : Port) (r : Request) (n : Nat) (x : Transfer) (resp : BusResp)
    (s : State) : afterTransfer p r n x resp (s.withHeld b) = nextWithHeld b (afterTransfer p r n x resp s) := by
  cases r with
  | attach | transact | detach | openSession | closeSession => rfl
  | sendCmd tag payload =>
    simp only [afterTransfer, sendAfter]
    split
    · rfl
    all_goals split <;> rfl

/-- T1 to T4 neither look at `held` nor write it. -/
theorem xactStep_withHeld (b : Bool) (p : Port) (r : Request) (n : Nat) (ph : Phase) (s : State) :
    xactStep p r n ph (s.withHeld b) = nextWithHeld b (xactStep p r n ph s) := by
  cases hx : (transfersOf r)[n]? with
  | none => simp only [xactStep, hx, nextWithHeld, thenStep_refused]
  | some x =>
    cases ph with
    | acquire => rw [xactStep_acquire hx, xactStep_acquire hx, acquireStep_withHeld]; rfl
    | retarget => rw [xactStep_retarget hx, xactStep_retarget hx]; rfl
    | transfer => rw [xactStep_transfer hx, xactStep_transfer hx, transferStep_withHeld]; rfl
    | release resp =>
      rw [xactStep_release hx, xactStep_release hx]
      exact afterTransfer_withHeld b p r n x resp (releaseStep s)

theorem microStep_xact_withHeld {ph : Phase} (b : Bool) (hf : flightOn p s.flights = some ⟨r, .xact n ph⟩) :
    microStep p (s.withHeld b) = nextWithHeld b (microStep p s) := by
  rw [microStep_xact hf, microStep_xact (s := s.withHeld b) hf, xactStep_withHeld]

/-- Settles O58: a transaction's micro-step commutes with setting `held`; setting it to what it is shows that the
micro-step does not write it. -/
theorem transactionsIgnoreTheSession : Obligations.TransactionsIgnoreTheSession := by
  intro p r n ph b s hf
  refine ⟨fun t ht => ⟨?same, ?kept⟩, fun why hw => ?refused⟩
  case same => exact (microStep_xact_withHeld b hf).trans (by rw [ht]; rfl)
  case kept =>
    have hown := microStep_xact_withHeld s.held hf
    rw [withHeld_of_held rfl, ht] at hown
    have ht' : t = t.withHeld s.held := Host.Outcome.next.inj hown
    rw [ht', withHeld_held]
  case refused => exact (microStep_xact_withHeld b hf).trans (by rw [hw]; rfl)

/-! ## The micro-steps of OPEN_SESSION and CLOSE_SESSION, R88, R92 -/

theorem startStep_open_held (p : Port) (hh : s.held = true) :
    startStep p .openSession s = .next (respond p .deviceBusy s) := by
  simp only [startStep, openS1, hh, if_true, raiseError]

theorem startStep_open_free (p : Port) (hh : s.held = false) :
    startStep p .openSession s = .next (advance p .openSession .openS2 (s.withHeld true)) := by
  simp only [startStep, openS1, hh, Bool.false_eq_true, if_false, State.withHeld]

theorem openS2_absent (p : Port) (hd : s.dev = none) :
    openS2 p s = .next (respond p .deviceNotReady (s.withHeld false)) := by
  simp only [openS2, hd, raiseError, State.withHeld]

/-- S2 on a detached device takes back what S1 wrote. -/
theorem openS2_releases (p : Port) (hh : s.held = false) (hd : s.dev = none) :
    openS2 p (advance p .openSession .openS2 (s.withHeld true)) =
      .next (respond p .deviceNotReady (advance p .openSession .openS2 s)) := by
  rw [openS2_absent p (s := advance _ _ _ (s.withHeld true)) hd, withHeld_advance, withHeld_withHeld,
    withHeld_of_held hh]

theorem openS2_present (p : Port) (hd : s.dev = some h) : openS2 p s = .next (respond p .ok s) := by
  simp only [openS2, hd]

theorem startStep_close_open (p : Port) (hh : s.held = true) :
    startStep p .closeSession s = .next (respond p .ok (s.withHeld false)) := by
  simp only [startStep, closeStep, hh, require_true, State.withHeld]

theorem startStep_close_closed (p : Port) (hh : s.held = false) :
    startStep p .closeSession s = .refused .closeWhileClosed := by
  simp only [startStep, closeStep, hh, require_false]

/-- Settles O30: S1 by the value of `held`, S2 by that of DEV. -/
theorem openSessionMicroSteps : Obligations.OpenSessionMicroSteps := by
  intro p s
  refine ⟨fun k => decodeRequest_record (r := .openSession) rfl, fun hf hh => ?busy, fun hf hh => ?takes,
    fun hf hd => ?absent, fun h hf hd => ?present⟩
  case busy => exact (microStep_start hf).trans (startStep_open_held p hh)
  case takes => exact (microStep_start hf).trans (startStep_open_free p hh)
  case absent => exact (microStep_openS2 hf).trans (openS2_absent p hd)
  case present => exact (microStep_openS2 hf).trans (openS2_present p hd)

/-! ## A request run alone -/

/-- A request that comes and goes leaves its response. -/
theorem respond_advance (r : Request) (m : Micro) (x : Response) (hi : flightOn p s.flights = none) :
    respond p x (advance p r m s) = said p x s := by
  have hflights : clearFlight p (advance p r m s).flights = s.flights := clearFlight_setFlight_of_idle hi
  simp only [respond, hflights]
  rfl

/-- A request that has been answered takes no more micro-steps. -/
theorem drive_said (k : Nat) (x : Response) (hi : flightOn p s.flights = none) :
    drive k p (said p x s) = .next (said p x s) :=
  drive_of_idle k hi

/-- A request whose first micro-step is refused is refused. -/
theorem runRequest_start_refused (hacc : r.acceptedOn s.port = true) (hi : idle s.port s) (hne : r ≠ .detach)
    (hstart : startStep s.port r (advance s.port r .start s) = .refused why) : runRequest r s = .refused why := by
  rw [runRequest_eq hacc hi (.inl hne), hstart, thenStep_refused]

/-- A request whose first micro-step answers it has been run. -/
theorem runRequest_start_responds (hacc : r.acceptedOn s.port = true) (hi : idle s.port s) (hne : r ≠ .detach)
    (ht : flightOn s.port t.flights = none)
    (hstart : startStep s.port r (advance s.port r .start s) = .next (respond s.port x (advance s.port r .start t))) :
    runRequest r s = .next (said s.port x t) := by
  rw [runRequest_eq hacc hi (.inl hne), hstart, thenStep_next, respond_advance r .start x ht, drive_said 25 x ht]

/-- An OPEN_SESSION that finds the session closed has been run with its S2. -/
theorem runRequest_open_responds (hacc : Request.acceptedOn .openSession s.port = true) (hi : idle s.port s)
    (hh : s.held = false) (ht : flightOn s.port t.flights = none)
    (hS2 : openS2 s.port (advance s.port .openSession .openS2 (s.withHeld true)) =
      .next (respond s.port x (advance s.port .openSession .openS2 t))) :
    runRequest .openSession s = .next (said s.port x t) := by
  have hstart : startStep s.port .openSession (advance s.port .openSession .start s) =
      .next (advance s.port .openSession .openS2 (s.withHeld true)) := by
    rw [startStep_open_free s.port (s := advance ..) hh, withHeld_advance, advance_advance]
  rw [runRequest_eq hacc hi (.inl nofun), hstart, thenStep_next, drive_succ 24,
    microStep_openS2 (flightOn_setFlight_same ..), hS2, thenStep_next, respond_advance _ _ x ht, drive_said 24 x ht]

/-- Settles O25: S1 alone on an open session, S1 and S2 on a closed one, where a DeviceNotReady takes back what S1
wrote. -/
theorem openSessionResult : Obligations.OpenSessionResult := by
  intro k s hp hi
  have hacc : Request.acceptedOn .openSession s.port = true := by rw [hp]; rfl
  rw [← hp] at hi ⊢
  refine ⟨fun hh => ?busy, fun hh hd => ?absent, fun h hh hd => ?present⟩
  case busy =>
    exact runRequest_start_responds hacc hi nofun hi.2 (startStep_open_held s.port (s := advance ..) hh)
  case absent => exact runRequest_open_responds hacc hi hh hi.2 (openS2_releases s.port hh hd)
  case present =>
    exact runRequest_open_responds (t := s.withHeld true) hacc hi hh hi.2
      (openS2_present s.port (s := advance ..) hd)

/-- Settles O26: CLOSE_SESSION is its first micro-step, whoever issues it. -/
theorem closeSessionResult : Obligations.CloseSessionResult := by
  intro k s
  refine ⟨decodeRequest_record (r := .closeSession) rfl, fun hp hi hh => ?closes, fun hp hi hh => ?refused,
    fun hf hh => (microStep_start hf).trans (startStep_close_open _ hh)⟩
  case closes =>
    rw [← hp] at hi ⊢
    exact runRequest_start_responds (t := s.withHeld false) (by rw [hp]; rfl) hi nofun hi.2
      (startStep_close_open s.port (s := advance ..) hh)
  case refused =>
    rw [← hp] at hi
    exact runRequest_start_refused (by rw [hp]; rfl) hi nofun (startStep_close_closed s.port (s := advance ..) hh)

theorem acceptedOn_client_of_clientTransfer (hr : isClientTransfer r) (k : Nat) :
    r.acceptedOn (.client k) = true := by
  rcases hr with ⟨kind, sel, reg, value, rfl⟩ | ⟨tag, payload, rfl⟩ <;> rfl

theorem ne_detach_of_clientTransfer (hr : isClientTransfer r) : r ≠ .detach := by
  rcases hr with ⟨kind, sel, reg, value, rfl⟩ | ⟨tag, payload, rfl⟩ <;> exact nofun

theorem runRequest_clientTransfer_closed (hr : isClientTransfer r) (hp : s.port = .client k) (hi : idle s.port s)
    (hh : s.held = false) : runRequest r s = .refused .transferWhileClosed :=
  runRequest_start_refused (hp ▸ acceptedOn_client_of_clientTransfer hr k) hi (ne_detach_of_clientTransfer hr)
    (startStep_clientTransfer_closed hr s.port (s := advance ..) hh)

/-- Settles O27, by the `require` of both requests. -/
theorem transfersOnClosedSessionAreRefused : Obligations.TransfersOnClosedSessionAreRefused := by
  intro k s hp hi hh
  rw [← hp] at hi
  exact ⟨fun _ _ _ _ => runRequest_clientTransfer_closed (.inl ⟨_, _, _, _, rfl⟩) hp hi hh,
    fun _ _ => runRequest_clientTransfer_closed (.inr ⟨_, _, rfl⟩) hp hi hh⟩

end Sys2Proof.Machine
end

section
/-! PROOFS. The session (spec/42_session.md): SEND_CMD and the commands on a client port, byte by byte (R94, R71 to
R78). -/

namespace Sys2Proof.Machine

open Sys2Proof.Expected

variable {p : Port} {r : Request} {n k : Nat} {tag : Tag} {payload b : Byte} {i : Instr} {code : BusCode} {s : State}

/-! ## The bytes of a SEND_CMD, R45, R70 -/

/-- The transaction that writes a byte to DISPLAY (R70). -/
def displayWrite (b : Byte) : Transfer :=
  writeTransfer .text Reg.display (zext10 b)

/-- A byte passes through `value` unchanged (R12, R84). -/
theorem lowByte_zext10 (b : Byte) : lowByte (zext10 b) = b :=
  BitVec.setWidth_setWidth_of_le b (by decide) |>.trans (BitVec.setWidth_eq b)

theorem wholeTransfer_displayWrite (h : Handle) (b : Byte) (s : State) :
    wholeTransfer h (displayWrite b) s = wrote h 0x3E#7 0x80#8 b s := by
  rw [displayWrite, writeTransfer, lowByte_zext10]
  rfl

theorem wholeResponse_displayWrite (b : Byte) (s : State) :
    wholeResponse (displayWrite b) s = writeAnswer 0x3E#7 0x80#8 b s := by
  rw [displayWrite, writeTransfer, lowByte_zext10]
  rfl

theorem transfersOf_sendCmd_opcode (tag : Tag) (payload : Byte) :
    (transfersOf (.sendCmd tag payload))[0]? = some (displayWrite (opcodeOf tag)) := rfl

theorem transfersOf_sendCmd_param (h : 2 ≤ tag.toNat) (payload : Byte) :
    (transfersOf (.sendCmd tag payload))[1]? = some (displayWrite (payload &&& maskOf tag)) := by
  have hwire : wire tag payload = [(Reg.display, opcodeOf tag), (Reg.display, payload &&& maskOf tag)] := by
    rw [wire, EncOut.bytes, encodeRaw_param_cmd1 (decide_eq_true h)]
    rfl
  rw [transfersOf, hwire]
  rfl

/-! ## One write of a SEND_CMD driven alone -/

/-- After its transaction a request goes on from the transaction's effect. -/
theorem advance_atRelease (x : Transfer) (m m' : Micro) (s : State) :
    advance p r m' (atRelease p r n x (advance p r m s)) = advance p r m' (wholeTransfer (handleFor r s) x s) := by
  rw [atRelease, advance_advance, handleFor_advance]
  exact congrArg (fun fs => { wholeTransfer (handleFor r s) x s with flights := fs }) (setFlight_setFlight ..)

/-- T1 to T4 of a write to DISPLAY, driven alone on a free lock: SEND_CMD goes on with the answer. -/
theorem drive_displayWrite (j : Nat) (hx : (transfersOf (.sendCmd tag payload))[n]? = some (displayWrite b))
    (hl : s.tlock = .free) :
    drive (j + 4) p (advance p (.sendCmd tag payload) (.xact n .acquire) s) =
      thenStep (sendAfter p tag payload n (writeAnswer 0x3E#7 0x80#8 b s)
        (atRelease p (.sendCmd tag payload) n (displayWrite b)
          (advance p (.sendCmd tag payload) (.xact n .acquire) s))) (drive j p) := by
  rw [drive_transaction (s := advance ..) j (flightOn_setFlight_same ..) hx hl, wholeResponse_displayWrite]
  rfl

/-- The response after a write to DISPLAY that was the last. -/
theorem respond_displayWrite (resp : Response) (hi : flightOn p s.flights = none) :
    respond p resp (atRelease p (.sendCmd tag payload) n (displayWrite b)
      (advance p (.sendCmd tag payload) (.xact n .acquire) s)) =
      said p resp (wrote (handleOf s) 0x3E#7 0x80#8 b s) := by
  rw [respond_atRelease _ _ _ hi, wholeTransfer_displayWrite]
  rfl

theorem okWrite_ne_fail (code : BusCode) : BusResp.okWrite ≠ .fail code := nofun

/-- A write that fails ends the SEND_CMD with its BusError (R94). -/
theorem drive_write_fails (j : Nat) (hx : (transfersOf (.sendCmd tag payload))[n]? = some (displayWrite b))
    (hl : s.tlock = .free) (hi : flightOn p s.flights = none) (hb : writeAnswer 0x3E#7 0x80#8 b s = .fail code) :
    drive (j + 4) p (advance p (.sendCmd tag payload) (.xact n .acquire) s) =
      .next (said p (.busError code) (wrote (handleOf s) 0x3E#7 0x80#8 b s)) := by
  rw [drive_displayWrite j hx hl, hb]
  simp only [sendAfter, raiseError, thenStep_next]
  rw [respond_displayWrite _ hi]
  exact drive_said j _ hi

/-- The last write of a SEND_CMD gives the response. -/
theorem drive_last_write (j : Nat) (hx : (transfersOf (.sendCmd tag payload))[n]? = some (displayWrite b))
    (hlast : n = 1 ∨ tag.toNat < 2) (hl : s.tlock = .free) (hi : flightOn p s.flights = none) :
    drive (j + 4) p (advance p (.sendCmd tag payload) (.xact n .acquire) s) = .next (sentOne p b s) := by
  rcases writeAnswer_cases 0x3E#7 0x80#8 b s with hb | ⟨code, hb⟩
  · rw [drive_displayWrite j hx hl, hb, sendAfter_last okWrite_ne_fail hlast, thenStep_next,
      respond_displayWrite _ hi, sentOne, hb]
    exact drive_said j _ hi
  · rw [drive_write_fails j hx hl hi hb, sentOne, hb]

/-- The two writes of a `CMD1` command. -/
theorem drive_two_writes (htag : 2 ≤ tag.toNat) (j : Nat) (hl : s.tlock = .free) (hi : flightOn p s.flights = none) :
    drive (j + 8) p (advance p (.sendCmd tag payload) (.xact 0 .acquire) s) =
      .next (sentTwo p (opcodeOf tag) (payload &&& maskOf tag) s) := by
  have hx := transfersOf_sendCmd_opcode tag payload
  rcases writeAnswer_cases 0x3E#7 0x80#8 (opcodeOf tag) s with hb | ⟨code, hb⟩
  · rw [drive_displayWrite (j + 4) hx hl, hb, sendAfter_opcode okWrite_ne_fail htag, thenStep_next, advance_atRelease,
      wholeTransfer_displayWrite, sentTwo, hb]
    exact drive_last_write j (transfersOf_sendCmd_param htag payload) (.inl rfl) hl hi
  · rw [drive_write_fails (j + 4) hx hl hi hb, sentTwo, hb]

/-! ## SEND_CMD and the commands on a client port -/

/-- SEND_CMD on an open session comes to T1 of its first write. -/
theorem runRequest_clientTransfer_open (hr : isClientTransfer r) (hp : s.port = .client k) (hi : idle s.port s)
    (hh : s.held = true) : runRequest r s = drive 25 s.port (advance s.port r (.xact 0 .acquire) s) := by
  rw [runRequest_eq (hp ▸ acceptedOn_client_of_clientTransfer hr k) hi (.inl (ne_detach_of_clientTransfer hr)),
    startStep_clientTransfer_open hr s.port (s := advance ..) hh, thenStep_next, advance_advance]

theorem isClientTransfer_sendCmd (tag : Tag) (payload : Byte) : isClientTransfer (.sendCmd tag payload) :=
  .inr ⟨tag, payload, rfl⟩

/-- SEND_CMD of a `CMD0` command on a free lock. -/
theorem exec_sendCmd_cmd0 (hp : s.port = .client k) (hi : idle (.client k) s) (hh : s.held = true)
    (hl : s.tlock = .free) (htag : tag.toNat < 2) :
    exec (.sendCmd tag payload) s = .next (sentOne (.client k) (opcodeOf tag) s) := by
  rw [← hp] at hi ⊢
  exact (runRequest_clientTransfer_open (isClientTransfer_sendCmd tag payload) hp hi hh).trans
    (drive_last_write 21 (transfersOf_sendCmd_opcode tag payload) (.inr htag) hl hi.2)

/-- SEND_CMD of a `CMD1` command on a free lock. -/
theorem exec_sendCmd_cmd1 (hp : s.port = .client k) (hi : idle (.client k) s) (hh : s.held = true)
    (hl : s.tlock = .free) (htag : 2 ≤ tag.toNat) :
    exec (.sendCmd tag payload) s = .next (sentTwo (.client k) (opcodeOf tag) (payload &&& maskOf tag) s) := by
  rw [← hp] at hi ⊢
  exact (runRequest_clientTransfer_open (isClientTransfer_sendCmd tag payload) hp hi hh).trans
    (drive_two_writes htag 17 hl hi.2)

theorem exec_sendCmd_waits (hp : s.port = .client k) (hi : idle (.client k) s) (hh : s.held = true)
    (hl : s.tlock = .held) :
    exec (.sendCmd tag payload) s = .next (waitingAtT1 (.client k) (.sendCmd tag payload) s) := by
  rw [← hp] at hi ⊢
  exact (runRequest_clientTransfer_open (isClientTransfer_sendCmd tag payload) hp hi hh).trans
    (drive_waiting 25 (flightOn_setFlight_same ..) (transfersOf_sendCmd_opcode tag payload) hl)

/-- Settles O19, by the number of bytes and TLOCK. -/
theorem sendCmdResult : Obligations.SendCmdResult := fun _ _ _ _ hp hi hh =>
  ⟨exec_sendCmd_cmd0 hp hi hh, exec_sendCmd_cmd1 hp hi hh, exec_sendCmd_waits hp hi hh⟩

/-- A `CMD0` command on a client port with the session open. -/
theorem exec_client_cmd0 (h : i.raw? = some (tag, payload)) (htag : tag.toNat < 2) (hp : s.port = .client k)
    (hi : idle (.client k) s) (hh : s.held = true) (hl : s.tlock = .free) :
    exec i s = .next (sentOne (.client k) (opcodeOf tag) s) :=
  ((namedCommandIsSendCmd i tag payload s h).1 k hp).trans (exec_sendCmd_cmd0 hp hi hh hl htag)

/-- A `CMD1` command on a client port with the session open: nothing of its payload is masked away. -/
theorem exec_client_cmd1 (h : i.raw? = some (tag, payload)) (htag : 2 ≤ tag.toNat) (hp : s.port = .client k)
    (hi : idle (.client k) s) (hh : s.held = true) (hl : s.tlock = .free) :
    exec i s = .next (sentTwo (.client k) (opcodeOf tag) payload s) := by
  rw [(namedCommandIsSendCmd i tag payload s h).1 k hp, exec_sendCmd_cmd1 hp hi hh hl htag, and_maskOf_of_raw h]

/-- Settles O16, by each command's raw Command. -/
theorem oneByteCommandsSendTheirOpcode : Obligations.OneByteCommandsSendTheirOpcode := fun _ _ hp hi hh hl =>
  ⟨exec_client_cmd0 raw_clearDisplay (by decide) hp hi hh hl,
    exec_client_cmd0 raw_returnHome (by decide) hp hi hh hl⟩

/-- Settles O17, by each command's raw Command. -/
theorem twoByteCommandsSendOpcodeThenParameter : Obligations.TwoByteCommandsSendOpcodeThenParameter :=
  fun _ _ hp hi hh hl =>
  ⟨fun i sh => exec_client_cmd1 (raw_entryModeSet i sh) (by decide) hp hi hh hl,
    fun d c b => exec_client_cmd1 (raw_displayOnOffCtl d c b) (by decide) hp hi hh hl,
    fun r sc => exec_client_cmd1 (raw_cursorOrDisplayShift r sc) (by decide) hp hi hh hl,
    fun f n d => exec_client_cmd1 (raw_functionSet f n d) (by decide) hp hi hh hl,
    fun a => exec_client_cmd1 (raw_setCgramAddress a) (by decide) hp hi hh hl,
    fun a => exec_client_cmd1 (raw_setDdramAddress a) (by decide) hp hi hh hl⟩

end Sys2Proof.Machine
end

section
/-! PROOFS. The session (spec/42_session.md): the OPEN_SESSIONs of two clients, under a transient hold (R90) and in
every order (R91). -/

namespace Sys2Proof.Machine

open Sys2Proof.Expected

variable {p q w l : Port} {k j n : Nat} {h : Handle} {m : Micro} {x : Response} {a b : Bool} {es : List Event}
  {s t : State}

/-! ## Single steps of OPEN_SESSION -/

theorem runSteps_of_step (hs : step s = .next t) : runSteps (k + 1) s = runSteps k t := by
  rw [runSteps, hs, thenStep_next]

theorem step_grants (he : s.events = .grant p :: es) : step s = microStep p (serve (.grant p) es s) := by
  simp only [step, he, fetch]

theorem step_presents_open (he : s.events = .issue (.client k) { op := 0x2#4 } :: es) (hi : idle (.client k) s) :
    step s = .next (advance (.client k) .openSession .start (serve (.issue (.client k) { op := 0x2#4 }) es s)) := by
  have hdecode : decodeRequest (.client k) { op := 0x2#4 } = .ok .openSession := rfl
  simp only [step, he, fetch, hdecode]
  exact accept_eq rfl hi (.inl nofun)

theorem step_S1_takes (he : s.events = .grant p :: es) (hf : flightOn p s.flights = some ⟨.openSession, .start⟩)
    (hh : s.held = false) :
    step s = .next (advance p .openSession .openS2 ((serve (.grant p) es s).withHeld true)) := by
  rw [step_grants he, microStep_start (s := serve ..) hf, startStep_open_free p (s := serve ..) hh]

theorem step_S1_busy (he : s.events = .grant p :: es) (hf : flightOn p s.flights = some ⟨.openSession, .start⟩)
    (hh : s.held = true) : step s = .next (respond p .deviceBusy (serve (.grant p) es s)) := by
  rw [step_grants he, microStep_start (s := serve ..) hf, startStep_open_held p (s := serve ..) hh]

/-- S2 on a detached device, in the state S1 has made of `s`. -/
theorem step_S2_releases (he : s.events = .grant p :: es) (hi : flightOn p s.flights = none) (hh : s.held = false)
    (hd : s.dev = none) :
    step (advance p .openSession .openS2 (s.withHeld true)) =
      .next (said p .deviceNotReady (serve (.grant p) es s)) := by
  rw [step_grants (s := advance _ _ _ (s.withHeld true)) he,
    microStep_openS2 (s := serve ..) (flightOn_setFlight_same ..)]
  refine (openS2_releases p (s := serve (.grant p) es s) hh hd).trans ?_
  rw [respond_advance (s := serve ..) _ _ _ hi]

theorem step_S2_present (he : s.events = .grant p :: es) (hf : flightOn p s.flights = some ⟨.openSession, .openS2⟩)
    (hd : s.dev = some h) : step s = .next (respond p .ok (serve (.grant p) es s)) := by
  rw [step_grants he, microStep_openS2 (s := serve ..) hf, openS2_present p (s := serve ..) hd]

/-- Granting a port with nothing in flight changes nothing (log 8). -/
theorem step_grant_idle (he : s.events = .grant p :: es) (hf : flightOn p s.flights = none) :
    step s = .next (serve (.grant p) es s) := by
  rw [step_grants he, microStep_of_idle (s := serve ..) hf]

/-- A port stays idle while another has a request. -/
theorem idle_advance (r : Request) (m : Micro) (hqp : q ≠ p) (hi : idle q s) : idle q (advance p r m s) :=
  ⟨hi.1, (flightOn_setFlight_other hqp).trans hi.2⟩

/-! ## A transient hold, R90 -/

/-- S1 of an OPEN_SESSION just presented takes the hold. -/
theorem runSteps_open_takes (n : Nat) (hi : idle (.client k) s) (hh : s.held = false) :
    runSteps (n + 2) (s.withEvents (.issue (.client k) { op := 0x2#4 } :: .grant (.client k) :: es)) =
      runSteps n (advance (.client k) .openSession .openS2 ((serve (.grant (.client k)) es s).withHeld true)) := by
  refine (runSteps_of_step (step_presents_open (s := s.withEvents _) rfl hi)).trans ?_
  refine (runSteps_of_step (step_S1_takes rfl (flightOn_setFlight_same ..) (by exact hh))).trans ?_
  exact congrArg (runSteps n) (advance_advance (s := (serve (.grant (.client k)) es s).withHeld true) ..)

/-- S1 of an OPEN_SESSION just presented finds the session held. -/
theorem runSteps_open_busy (n : Nat) (hi : idle (.client j) s) (hh : s.held = true)
    (he : s.events = .issue (.client j) { op := 0x2#4 } :: .grant (.client j) :: es) :
    runSteps (n + 2) s = runSteps n (said (.client j) .deviceBusy (serve (.grant (.client j)) es s)) := by
  refine (runSteps_of_step (step_presents_open he hi)).trans ?_
  refine (runSteps_of_step (step_S1_busy rfl (flightOn_setFlight_same ..) (by exact hh))).trans ?_
  rw [← respond_advance .openSession .start .deviceBusy (s := serve ..) hi.2]
  rfl

theorem said_said (p q : Port) (x y : Response) (s : State) :
    said p x (said q y s) = { s with outputs := s.outputs ++ [.response q y, .response p x] } := by
  rw [said, said, List.append_assoc]
  rfl

/- In a chain of steps the facts about a step's state are given `by exact`: the state is known from the step before. -/

/-- Settles O31: the first client has the hold, the second comes and goes under it, and S2 of the first releases it. -/
theorem transientHoldAnswersBusy : Obligations.TransientHoldAnswersBusy := by
  intro k j es s hkj hk hj hd hh
  have hjk : Port.client j ≠ .client k := mt Port.client.inj hkj.symm
  refine (runSteps_open_takes 3 hk hh).trans ?_
  refine (runSteps_open_busy 1 (by exact idle_advance _ _ hjk hj) rfl rfl).trans ?_
  refine (runSteps_of_step (step_S2_releases
    (s := said _ _ (serve (.grant (.client j)) _ (serve _ _ s))) rfl hk.2 hh hd)).trans ?_
  exact congrArg Host.Outcome.next (said_said (s := serve (.grant (.client k)) es s) ..)

/-! ## Two OPEN_SESSIONs on an attached device, R91 -/

/-- On an open session of an attached device an OPEN_SESSION at `m` is answered `x` by its next micro-step. -/
abbrev answersNext (m : Micro) (x : Response) : Prop :=
  (m = .openS2 ∧ x = .ok) ∨ (m = .start ∧ x = .deviceBusy)

/-- Port `p` has an OPEN_SESSION at `m` in flight or, once it is answered, nothing. -/
def opening (p : Port) (m : Micro) (done : Bool) (s : State) : Prop :=
  flightOn p s.flights = if done then none else some ⟨.openSession, m⟩

/-- The response `x` on port `p`, if it is given. -/
def answerIf (given : Bool) (p : Port) (x : Response) : List (Port × Response) :=
  if given then [(p, x)] else []

/-- The session is open on the device `h`, and these events are to come. -/
abbrev openOn (h : Handle) (es : List Event) (s : State) : Prop :=
  s.dev = some h ∧ s.held = true ∧ s.events = es

/-- A grant answers the OPEN_SESSION, if it is not answered yet, and concerns no other port. -/
theorem step_grant_opening (hx : answersNext m x) (hs : openOn h (.grant p :: es) s) (hp : opening p m a s) :
    ∃ t, step s = .next t ∧ openOn h es t ∧ opening p m true t ∧
      (∀ q, q ≠ p → flightOn q t.flights = flightOn q s.flights) ∧
      responses t.outputs = responses s.outputs ++ answerIf (!a) p x := by
  obtain ⟨hd, hh, he⟩ := hs
  cases a with
  | true => exact ⟨_, step_grant_idle he hp, ⟨hd, hh, rfl⟩, hp, fun _ _ => rfl, (List.append_nil _).symm⟩
  | false =>
    have hstep : step s = .next (respond p x (serve (.grant p) es s)) := by
      rcases hx with ⟨rfl, rfl⟩ | ⟨rfl, rfl⟩
      · exact step_S2_present he hp hd
      · exact step_S1_busy he hp hh
    exact ⟨_, hstep, ⟨hd, hh, rfl⟩, flightOn_clearFlight_same, fun q hq => flightOn_clearFlight_other hq,
      responses_append _ _⟩

/-- `w` has taken the hold and `l` has not tested it yet: in every order of grants each is answered once, `w` with OK
and `l` with DeviceBusy. -/
theorem runSteps_race (hwl : w ≠ l) {order : List Port} (horder : ∀ p ∈ order, p = w ∨ p = l)
    (hs : openOn h (order.map .grant) s) (hw : opening w .openS2 a s) (hl : opening l .start b s) :
    ∃ t answers, runSteps order.length s = .next t ∧ t.held = true ∧
      responses t.outputs = responses s.outputs ++ answers ∧
      answers.Perm
        (answerIf (!a && decide (w ∈ order)) w .ok ++ answerIf (!b && decide (l ∈ order)) l .deviceBusy) := by
  induction order generalizing s a b with
  | nil => exact ⟨s, [], rfl, hs.2.1, (List.append_nil _).symm, by simp [answerIf]⟩
  | cons p order ih =>
    have hrest : ∀ q ∈ order, q = w ∨ q = l := fun q hq => horder q (List.mem_cons_of_mem p hq)
    rcases horder p List.mem_cons_self with rfl | rfl
    · obtain ⟨t, hstep, ht, hp, hothers, houts⟩ := step_grant_opening (.inl ⟨rfl, rfl⟩) hs hw
      obtain ⟨u, answers, hrun, hheld, hresp, hperm⟩ := ih hrest ht hp ((hothers l hwl.symm).trans hl)
      refine ⟨u, answerIf (!a) p .ok ++ answers, (runSteps_of_step hstep).trans hrun, hheld, ?_, ?_⟩
      · rw [hresp, houts, List.append_assoc]
      · simpa [answerIf, hwl.symm] using hperm.append_left (answerIf (!a) p .ok)
    · obtain ⟨t, hstep, ht, hp, hothers, houts⟩ := step_grant_opening (.inr ⟨rfl, rfl⟩) hs hl
      obtain ⟨u, answers, hrun, hheld, hresp, hperm⟩ := ih hrest ht ((hothers w hwl).trans hw) hp
      refine ⟨u, answerIf (!b) p .deviceBusy ++ answers, (runSteps_of_step hstep).trans hrun, hheld, ?_, ?_⟩
      · rw [hresp, houts, List.append_assoc]
      · refine (List.perm_append_comm).trans ?_
        simpa [answerIf, hwl] using hperm.append_right (answerIf (!b) p .deviceBusy)

/-- What the answers of such a race say, whoever has won it. -/
theorem race_answers {answers : List (Port × Response)}
    (hperm : answers.Perm (answerIf a w .ok ++ answerIf b l .deviceBusy)) :
    (answers.map Prod.snd).countP (· = .ok) ≤ 1 ∧
      (answers.length = 2 →
        (answers.map Prod.snd).countP (· = .ok) = 1 ∧ (answers.map Prod.snd).countP (· = .deviceBusy) = 1) ∧
      (a = true → b = true → answers.length = 2) := by
  have hsnd := hperm.map Prod.snd
  rw [hsnd.countP_eq, hsnd.countP_eq, hperm.length_eq]
  cases a with
  | false => cases b <;> simp [answerIf]
  | true => cases b <;> simp [answerIf]

/-- The port granted first takes the hold; with two grants each both are answered. -/
theorem runSteps_opens (hwl : w ≠ l) {rest : List Port} (hrest : ∀ p ∈ rest, p = w ∨ p = l)
    (he : s.events = .grant w :: rest.map .grant) (hd : s.dev = some h) (hh : s.held = false)
    (hw : flightOn w s.flights = some ⟨.openSession, .start⟩)
    (hl : flightOn l s.flights = some ⟨.openSession, .start⟩) :
    ∃ t answers, runSteps (rest.length + 1) s = .next t ∧
      responses t.outputs = responses s.outputs ++ answers ∧
      (answers.map Prod.snd).countP (· = .ok) ≤ 1 ∧
      (answers.length = 2 →
        (answers.map Prod.snd).countP (· = .ok) = 1 ∧ (answers.map Prod.snd).countP (· = .deviceBusy) = 1 ∧
          t.held = true) ∧
      (2 ≤ (w :: rest).count w → 2 ≤ (w :: rest).count l → answers.length = 2) := by
  obtain ⟨t, answers, hrun, hheld, hresp, hperm⟩ := runSteps_race (h := h) (a := false) (b := false)
    (s := advance w .openSession .openS2 ((serve (.grant w) (rest.map .grant) s).withHeld true)) hwl hrest
    ⟨hd, rfl, rfl⟩ (flightOn_setFlight_same ..) ((flightOn_setFlight_other hwl.symm).trans hl)
  obtain ⟨hone, htwo, hall⟩ := race_answers hperm
  refine ⟨t, answers, (runSteps_of_step (step_S1_takes he hw hh)).trans hrun, hresp, hone,
    fun hlen => ⟨(htwo hlen).1, (htwo hlen).2, hheld⟩, fun hcw hcl => hall ?_ ?_⟩
  · have hmem : w ∈ rest := List.count_pos_iff.1 (by rw [List.count_cons_self] at hcw; omega)
    simpa using hmem
  · have hmem : l ∈ rest := List.count_pos_iff.1 (by rw [List.count_cons_of_ne hwl] at hcl; omega)
    simpa using hmem

/-- The state in which both clients have presented an OPEN_SESSION. -/
def bothOpening (k j : Nat) (es : List Event) (s : State) : State :=
  { s with
    flights := setFlight (.client j) ⟨.openSession, .start⟩ (setFlight (.client k) ⟨.openSession, .start⟩ s.flights)
    events := es
    port := .client j }

theorem runFrom_two_opens (hne : Port.client k ≠ .client j) (hk : idle (.client k) s) (hj : idle (.client j) s) :
    runFrom (n + 2) (.issue (.client k) { op := 0x2#4 } :: .issue (.client j) { op := 0x2#4 } :: es) s =
      runSteps n (bothOpening k j es s) :=
  (runSteps_of_step (step_presents_open (s := s.withEvents _) rfl hk)).trans
    (runSteps_of_step (step_presents_open (s := advance ..) rfl (idle_advance _ _ hne.symm hj)))

/-- Settles O32: both requests are presented, and the first grant decides who has the hold. -/
theorem concurrentOpensGiveOneSession : Obligations.ConcurrentOpensGiveOneSession := by
  intro k j h s order hkj hk hj hd hh horder
  have hne : Port.client k ≠ .client j := mt Port.client.inj hkj
  have hkept : flightOn (.client k) (setFlight (.client j) ⟨.openSession, .start⟩
      (setFlight (.client k) ⟨.openSession, .start⟩ s.flights)) = some ⟨.openSession, .start⟩ := by
    rw [flightOn_setFlight_other hne, flightOn_setFlight_same]
  rw [runFrom_two_opens hne hk hj]
  cases order with
  | nil => exact ⟨_, [], rfl, (List.append_nil _).symm, by simp, by simp, by simp⟩
  | cons p rest =>
    have hrest : ∀ q ∈ rest, q = .client k ∨ q = .client j := fun q hq => horder q (List.mem_cons_of_mem p hq)
    rcases horder p List.mem_cons_self with rfl | rfl
    · exact runSteps_opens (s := bothOpening ..) hne hrest rfl hd hh hkept (flightOn_setFlight_same ..)
    · obtain ⟨t, answers, ht, hresp, hone, htwo, hall⟩ := runSteps_opens (s := bothOpening ..) hne.symm
        (fun q hq => (hrest q hq).symm) rfl hd hh (flightOn_setFlight_same ..) hkept
      exact ⟨t, answers, ht, hresp, hone, htwo, fun hck hcj => hall hcj hck⟩

end Sys2Proof.Machine
end

section
/-! PROOFS. The session (spec/42_session.md): ATTACH run alone, write by write (R97, R99), and OPEN_SESSION before and
after it (R88, R90). -/

namespace Sys2Proof.Machine

open Sys2Proof.Expected

variable {p q : Port} {k n : Nat} {h : Handle} {x : Transfer} {xs : List Transfer} {answer : Response}
  {es : List Event} {s t : State}

/-! ## ATTACH run alone, R97, R99 -/

/-- Outputs are put out; nothing else happens. -/
def State.putOut (new : List Output) (s : State) : State :=
  { s with outputs := s.outputs ++ new }

/-- One initialisation write done whole: the transaction, and its log event if it failed (R99). -/
def initWritten (h : Handle) (n : Nat) (x : Transfer) (s : State) : State :=
  (wholeTransfer h x s).putOut (initLog (logStep n) x.reg (wholeResponse x s))

/-- The initialisation writes from the `n`-th on, one after the other. -/
def initWrites (h : Handle) : Nat → List Transfer → State → State
  | _, [], s => s
  | n, x :: xs, s => initWrites h (n + 1) xs (initWritten h n x s)

/-- T1 to T4 of an initialisation write, driven alone on a free lock. -/
theorem drive_initWrite (i : Nat) (hx : (transfersOf (.attach h))[n]? = some x) (hl : s.tlock = .free) :
    drive (i + 4) p (advance p (.attach h) (.xact n .acquire) s) =
      drive i p (advance p (.attach h) (if n + 1 < initTable.length then .xact (n + 1) .acquire else .expose)
        (initWritten h n x s)) := by
  rw [drive_transaction (s := advance ..) i (flightOn_setFlight_same ..) hx hl]
  have hnext (m : Micro) (new : List Output) :
      advance p (.attach h) m
        ((atRelease p (.attach h) n x (advance p (.attach h) (.xact n .acquire) s)).putOut new) =
      advance p (.attach h) m ((wholeTransfer h x s).putOut new) :=
    congrArg (State.putOut new) (advance_atRelease ..)
  exact congrArg (drive i p) (hnext ..)

theorem initTransfer_of_drop (hxs : (transfersOf (.attach h)).drop n = x :: xs) :
    (transfersOf (.attach h))[n]? = some x := by
  rw [← List.head?_drop, hxs, List.head?_cons]

theorem initTable_length_of_drop (hxs : (transfersOf (.attach h)).drop n = x :: xs) :
    initTable.length - n = xs.length + 1 := by
  rw [← List.length_cons (a := x), ← hxs, List.length_drop]
  rfl

/-- The initialisation writes from the `n`-th on lead to A7. -/
theorem drive_initWrites (i : Nat) (hxs : (transfersOf (.attach h)).drop n = x :: xs) (hl : s.tlock = .free) :
    drive (i + 4 * (x :: xs).length) p (advance p (.attach h) (.xact n .acquire) s) =
      drive i p (advance p (.attach h) .expose (initWrites h n (x :: xs) s)) := by
  induction xs generalizing n x s with
  | nil =>
    have hlen : initTable.length - n = 1 := initTable_length_of_drop hxs
    have hlast : ¬ n + 1 < initTable.length := by omega
    rw [List.length_singleton, drive_initWrite i (initTransfer_of_drop hxs) hl, if_neg hlast]
    rfl
  | cons y ys ih =>
    have hlen : initTable.length - n = ys.length + 2 := initTable_length_of_drop hxs
    have hmore : n + 1 < initTable.length := by omega
    have hys : (transfersOf (.attach h)).drop (n + 1) = y :: ys := by rw [← List.tail_drop, hxs, List.tail_cons]
    rw [List.length_cons, Nat.mul_succ, ← Nat.add_assoc, drive_initWrite _ (initTransfer_of_drop hxs) hl,
      if_pos hmore]
    exact ih hys hl

/-- The initialisation writes touch ADDR and what stands outside only. -/
theorem initWrites_frame (h : Handle) (n : Nat) (xs : List Transfer) (s : State) :
    initWrites h n xs s = { s with
      addr := (initWrites h n xs s).addr
      responder := (initWrites h n xs s).responder
      draws := (initWrites h n xs s).draws
      outputs := (initWrites h n xs s).outputs } := by
  induction xs generalizing n s with
  | nil => rfl
  | cons x xs ih => exact ih (n + 1) (initWritten h n x s)

/-- The initialisation writes put out no response. -/
theorem responses_initWrites (h : Handle) (n : Nat) (xs : List Transfer) (s : State) :
    responses (initWrites h n xs s).outputs = responses s.outputs := by
  induction xs generalizing n s with
  | nil => rfl
  | cons x xs ih =>
    have hlog : responses (initLog (logStep n) x.reg (wholeResponse x s)) = [] := by
      rcases initLog_cases (logStep n) x.reg (wholeResponse x s) with ⟨code, -, hnew⟩ | ⟨-, hnew⟩
      · rw [hnew]; rfl
      · rw [hnew]; rfl
    have hwritten : responses (initWritten h n x s).outputs = responses s.outputs := by
      rw [initWritten, State.putOut, responses_append, hlog, List.append_nil, wholeTransfer_outputs, responses_append]
      exact List.append_nil _
    exact (ih (n + 1) (initWritten h n x s)).trans hwritten

/-- The state after an ATTACH run alone on a free lock, but for its response. -/
def attached (h : Handle) (s : State) : State :=
  { initWrites h 0 (transfersOf (.attach h)) s with dev := some h }

theorem attached_frame (h : Handle) (s : State) :
    (attached h s).held = s.held ∧ (attached h s).flights = s.flights ∧ (attached h s).nclient = s.nclient ∧
      (attached h s).events = s.events := by
  rw [attached, initWrites_frame]
  exact ⟨rfl, rfl, rfl, rfl⟩

/-- ATTACH on a detached LCDSEQ with TLOCK free: the six writes, A7 and OK (R97). -/
theorem runRequest_attach (hp : s.port = .lifecycle) (hi : idle .lifecycle s) (hd : s.dev = none)
    (hl : s.tlock = .free) : runRequest (.attach h) s = .next (said .lifecycle .ok (attached h s)) := by
  rw [← hp] at hi ⊢
  obtain ⟨-, hflights, -⟩ := attached_frame h s
  have hgone : flightOn s.port (attached h s).flights = none := by
    rw [hflights]
    exact hi.2
  rw [runRequest_eq (r := .attach h) (by rw [hp]; rfl) hi (.inl nofun),
    startStep_attach_absent s.port h (s := advance ..) hd, thenStep_next, advance_advance]
  refine (drive_initWrites 1 (n := 0) rfl hl).trans ?_
  rw [drive_succ, microStep_expose (flightOn_setFlight_same ..), exposeStep, thenStep_next, drive_zero]
  exact congrArg Host.Outcome.next (respond_advance (s := attached h s) _ _ _ hgone)

/-! ## OPEN_SESSION before and after an ATTACH, R88, R90, E5 -/

theorem step_runs (r : Request) (hacc : r.acceptedOn p = true) (he : s.events = .run p r.record :: es) :
    step s = runRequest r (serve (.run p r.record) es s) := by
  rw [step_of_instr he (fetch_run (decodeRequest_record hacc)), exec_toInstr]

theorem responses_said (p : Port) (x : Response) (s : State) :
    responses (said p x s).outputs = responses s.outputs ++ [(p, x)] :=
  responses_append _ _

/-- A request on port `p` was run to its response: it has left nothing in flight, and the events `es` are next. -/
def ranTo (p : Port) (answer : Response) (es : List Event) (s t : State) : Prop :=
  t.events = es ∧ t.flights = s.flights ∧ t.nclient = s.nclient ∧
    responses t.outputs = responses s.outputs ++ [(p, answer)]

theorem idle_of_ranTo (hran : ranTo p answer es s t) (hi : idle q s) : idle q t := by
  obtain ⟨-, hflights, hnclient, -⟩ := hran
  rw [idle, hflights, hnclient]
  exact hi

theorem step_runs_open_absent (he : s.events = .run (.client k) { op := 0x2#4 } :: es) (hi : idle (.client k) s)
    (hh : s.held = false) (hd : s.dev = none) :
    ∃ t, step s = .next t ∧ ranTo (.client k) .deviceNotReady es s t ∧ t.dev = none ∧ t.held = false ∧
      t.tlock = s.tlock := by
  obtain ⟨-, habsent, -⟩ := openSessionResult k (serve (.run (.client k) { op := 0x2#4 }) es s) rfl hi
  exact ⟨_, (step_runs .openSession rfl he).trans (habsent hh hd), ⟨rfl, rfl, rfl, responses_said ..⟩, hd, hh, rfl⟩

theorem step_runs_open_present (he : s.events = .run (.client k) { op := 0x2#4 } :: es) (hi : idle (.client k) s)
    (hh : s.held = false) (hd : s.dev = some h) :
    ∃ t, step s = .next t ∧ ranTo (.client k) .ok es s t ∧ t.dev = some h ∧ t.held = true := by
  obtain ⟨-, -, hpresent⟩ := openSessionResult k (serve (.run (.client k) { op := 0x2#4 }) es s) rfl hi
  exact ⟨_, (step_runs .openSession rfl he).trans (hpresent h hh hd), ⟨rfl, rfl, rfl, responses_said ..⟩, hd, rfl⟩

theorem step_runs_attach (he : s.events = .run .lifecycle { op := 0x0#4, handle := h } :: es)
    (hi : idle .lifecycle s) (hd : s.dev = none) (hl : s.tlock = .free) :
    ∃ t, step s = .next t ∧ ranTo .lifecycle .ok es s t ∧ t.dev = some h ∧ t.held = s.held := by
  obtain ⟨hheld, hflights, hnclient, hevents⟩ :=
    attached_frame h (serve (.run .lifecycle (Request.record (.attach h))) es s)
  refine ⟨_, (step_runs (.attach h) rfl he).trans (runRequest_attach rfl hi hd hl),
    ⟨hevents, hflights, hnclient, (responses_said ..).trans ?_⟩, rfl, hheld⟩
  rw [attached, responses_initWrites]
  rfl

/-- Settles O52: the first OPEN_SESSION leaves the session closed, ATTACH does not touch it, and the second finds a
device and no hold. -/
theorem openBeforeAttachLeavesNothingHeld : Obligations.OpenBeforeAttachLeavesNothingHeld := by
  intro k j h s hk hj hlife hd hh hl
  obtain ⟨t, hopen, hran, htd, hth, htl⟩ := step_runs_open_absent (s := s.withEvents [_, _, _]) rfl hk hh hd
  obtain ⟨u, hattach, hran', hud, huh⟩ :=
    step_runs_attach (h := h) hran.1 (idle_of_ranTo hran hlife) htd (htl.trans hl)
  obtain ⟨v, hreopen, hran'', hvd, hvh⟩ := step_runs_open_present (k := j) hran'.1
    (idle_of_ranTo hran' (idle_of_ranTo hran hj)) (huh.trans hth) hud
  have hrun := (runSteps_of_step (k := 2) hopen).trans
    ((runSteps_of_step (k := 1) hattach).trans (runSteps_of_step (k := 0) hreopen))
  refine ⟨v, hrun, ?_, hvd, hvh⟩
  obtain ⟨-, -, -, hfirst⟩ := hran
  obtain ⟨-, -, -, hsecond⟩ := hran'
  obtain ⟨-, -, -, hthird⟩ := hran''
  rw [hthird, hsecond, hfirst, List.append_assoc, List.append_assoc]
  rfl

end Sys2Proof.Machine
end

section
/-! PROOFS. The initialisation sequencer (spec/43_init_sequencer.md): ATTACH run alone as a whole next state (R96, R97,
R99), its six writes whatever the responder answers (R98), and DETACH (R100). -/

namespace Sys2Proof.Machine

open Sys2Proof.Expected

variable {p : Port} {r : Request} {m : Micro} {n : Nat} {h : Handle} {es : List (Byte × Byte)} {s : State}

/-! ## The initialisation writes as one state, R96, R97, R99 -/

/-- The transaction of a row of the initialisation table (R97). -/
def initTransfer (e : Byte × Byte) : Transfer :=
  writeTransfer .backlight e.1 (zext10 e.2)

/-- The bus operation of a row of the initialisation table (R96). -/
def initOp (e : Byte × Byte) : BusOp :=
  .write 0x62#7 e.1 e.2

theorem transfersOf_attach (h : Handle) : transfersOf (.attach h) = table.map initTransfer := rfl

theorem map_initOp_table : table.map initOp = initOps := rfl

/-- The writes of the rows `es` done whole, the first of them the initialisation step `step`: what they put out is
`initOutputs`. -/
def initWrote (h : Handle) (es : List (Byte × Byte)) (step : LogStep) (s : State) : State :=
  { s with
    addr := 0x62#7
    responder := (es.map initOp).foldl responderAfter s.responder
    draws := s.draws + es.length
    outputs := s.outputs ++ initOutputs h es step s.responder s.draws }

theorem wholeTransfer_initTransfer (h : Handle) (reg b : Byte) (s : State) :
    wholeTransfer h (initTransfer (reg, b)) s = wrote h 0x62#7 reg b s := by
  rw [initTransfer, writeTransfer, lowByte_zext10]
  rfl

theorem wholeResponse_initTransfer (reg b : Byte) (s : State) :
    wholeResponse (initTransfer (reg, b)) s = writeAnswer 0x62#7 reg b s := by
  rw [initTransfer, writeTransfer, lowByte_zext10]
  rfl

/-- One initialisation write puts out its bus operation and, if it failed, its log event (R99). -/
theorem initWritten_initTransfer (h : Handle) (n : Nat) (reg b : Byte) (s : State) :
    initWritten h n (initTransfer (reg, b)) s =
      (wrote h 0x62#7 reg b s).putOut (initLog (logStep n) reg (writeAnswer 0x62#7 reg b s)) := by
  rw [initWritten, wholeTransfer_initTransfer, wholeResponse_initTransfer]
  rfl

theorem initOutputs_cons (h : Handle) (reg b : Byte) (es : List (Byte × Byte)) (step : LogStep) (s : State) :
    initOutputs h ((reg, b) :: es) step s.responder s.draws =
      [.bus h (.write 0x62#7 reg b) (writeAnswer 0x62#7 reg b s)] ++
        initLog step reg (writeAnswer 0x62#7 reg b s) ++
        initOutputs h es (step + 1#3) (responderAfter s.responder (.write 0x62#7 reg b)) (s.draws + 1) := rfl

/-- The first row's write, then the others'. -/
theorem initWrote_initWritten (h : Handle) (n : Nat) (reg b : Byte) (es : List (Byte × Byte)) (s : State) :
    initWrote h es (logStep (n + 1)) (initWritten h n (initTransfer (reg, b)) s) =
      initWrote h ((reg, b) :: es) (logStep n) s := by
  have hdraws : s.draws + 1 + es.length = s.draws + ((reg, b) :: es).length := by rw [List.length_cons]; omega
  rw [initWritten_initTransfer, initWrote, initWrote, ← hdraws, initOutputs_cons, logStep_succ,
    ← List.append_assoc, ← List.append_assoc]
  rfl

theorem initWrites_of_addr (ha : s.addr = 0x62#7) :
    initWrites h n (es.map initTransfer) s = initWrote h es (logStep n) s := by
  induction es generalizing n s with
  | nil => simp [initWrites, initWrote, initOutputs, ← ha]
  | cons e es ih =>
    obtain ⟨reg, b⟩ := e
    exact (ih (n := n + 1) (s := initWritten h n (initTransfer (reg, b)) s) rfl).trans (initWrote_initWritten ..)

/-- The initialisation writes from any ADDR: the first of them puts BACKLIGHT's address there. -/
theorem initWrites_cons (h : Handle) (n : Nat) (reg b : Byte) (es : List (Byte × Byte)) (s : State) :
    initWrites h n (((reg, b) :: es).map initTransfer) s = initWrote h ((reg, b) :: es) (logStep n) s :=
  (initWrites_of_addr (s := initWritten h n (initTransfer (reg, b)) s) rfl).trans (initWrote_initWritten ..)

theorem attached_eq (h : Handle) (s : State) :
    attached h s = { initWrote h table 1#3 s with dev := some h } := by
  rw [attached, transfersOf_attach, table, initWrites_cons]
  rfl

/-! ## ATTACH run alone, R96 to R99 -/

theorem acceptedOn_attach (hp : s.port = .lifecycle) (h : Handle) :
    Request.acceptedOn (.attach h) s.port = true := by rw [hp]; rfl

/-- Settles O22: the six writes as one state, the wait at T1 of the first, and the `require`. -/
theorem attachResult : Obligations.AttachResult := by
  intro h s hp hi
  refine ⟨fun hd hl => ?runs, fun hd hl => ?waits, fun h' hd => ?refused⟩
  case runs =>
    exact (runRequest_attach hp hi hd hl).trans (by rw [attached_eq]; rfl)
  case waits =>
    rw [← hp] at hi ⊢
    have hstart := startStep_attach_absent s.port h (s := advance s.port (.attach h) .start s) hd
    rw [advance_advance] at hstart
    exact runRequest_waits (acceptedOn_attach hp h) hi nofun hstart rfl hl
  case refused =>
    rw [← hp] at hi
    exact runRequest_start_refused (acceptedOn_attach hp h) hi nofun
      (startStep_attach_present s.port h (s := advance ..) hd)

/-! ## The six writes whatever fails, R98 -/

theorem busTrace_append (a c : List Output) : busTrace (a ++ c) = busTrace a ++ busTrace c :=
  List.filterMap_append

theorem busTrace_initLog (step : LogStep) (reg : Byte) (resp : BusResp) :
    busTrace (initLog step reg resp) = [] := by
  cases resp <;> rfl

/-- A failed write is on the bus like any other, and its log event is no bus operation. -/
theorem busTrace_initWrites (h : Handle) (n : Nat) (es : List (Byte × Byte)) (s : State) :
    busTrace (initWrites h n (es.map initTransfer) s).outputs = busTrace s.outputs ++ es.map initOp := by
  induction es generalizing n s with
  | nil => exact (List.append_nil _).symm
  | cons e es ih =>
    obtain ⟨reg, b⟩ := e
    have hwritten : busTrace (initWritten h n (initTransfer (reg, b)) s).outputs =
        busTrace s.outputs ++ [initOp (reg, b)] := by
      rw [initWritten_initTransfer, State.putOut, busTrace_append, busTrace_initLog, List.append_nil, wrote,
        busTrace_append]
      rfl
    rw [List.map_cons, List.map_cons, List.append_cons, ← hwritten]
    exact ih (n + 1) _

theorem busTrace_attached (h : Handle) (s : State) :
    busTrace (attached h s).outputs = busTrace s.outputs ++ initOps :=
  busTrace_initWrites h 0 table s

theorem responses_attached (h : Handle) (s : State) : responses (attached h s).outputs = responses s.outputs :=
  responses_initWrites ..

/-- Settles O23: what the responder answers reaches the log and nothing else. -/
theorem attachWritesSixWhateverFails : Obligations.AttachWritesSixWhateverFails := by
  intro h s hp hi hd hl
  obtain ⟨hheld, hflights, -, -⟩ := attached_frame h s
  have htlock : (attached h s).tlock = .free := by rw [attached_eq]; exact hl
  have haddr : (attached h s).addr = 0x62#7 := by rw [attached_eq]; rfl
  refine ⟨said .lifecycle .ok (attached h s), runRequest_attach hp hi hd hl, ?trace, ?answers, rfl, hheld, htlock,
    haddr, hflights⟩
  case trace =>
    rw [said, busTrace_append, busTrace_attached]
    exact List.append_nil _
  case answers => rw [responses_said, responses_attached]

/-! ## DETACH, R100 -/

/-- DEV and the session cleared, and ADDR at a free value (R21, R100). -/
def afterDetach (s : State) : State :=
  { s with dev := none, held := false, addr := Config.freeAddr s.draws, draws := s.draws + 1 }

theorem startStep_detach (p : Port) (ht : transferInFlight s.flights = false) :
    startStep p .detach s = .next (respond p .ok (afterDetach s)) := by
  simp only [startStep, detachStep, ht, Bool.not_false, require_true]
  rfl

/-- A request that uses no transaction does not count as one that does. -/
theorem transferInFlight_advance (hr : usesTransport r = false) (ht : transferInFlight s.flights = false) :
    transferInFlight (advance p r m s).flights = false := by
  rw [transferInFlight, List.any_eq_false] at ht ⊢
  intro e he
  rcases mem_setFlight he with rfl | hold
  · exact Bool.eq_false_iff.1 hr
  · exact ht e hold

/-- DETACH with no transfer in flight is its first micro-step. -/
theorem runRequest_detach (hp : s.port = .lifecycle) (hi : idle .lifecycle s)
    (ht : transferInFlight s.flights = false) :
    runRequest .detach s = .next (said .lifecycle .ok (afterDetach s)) := by
  rw [← hp] at hi ⊢
  have hgone : respond s.port .ok (afterDetach (advance s.port .detach .start s)) = said s.port .ok (afterDetach s) :=
    respond_advance (s := afterDetach s) .detach .start .ok hi.2
  rw [runRequest_eq (by rw [hp]; rfl) hi (.inr ht), startStep_detach s.port (transferInFlight_advance rfl ht),
    thenStep_next, hgone, drive_said (s := afterDetach s) 25 .ok hi.2]

/-- Settles O24: DETACH is its first micro-step, run whole or granted, and reads neither DEV nor the session. -/
theorem detachResult : Obligations.DetachResult := fun _ =>
  ⟨decodeRequest_record (r := .detach) rfl, fun hp hi ht => ⟨_, runRequest_detach hp hi ht, rfl⟩,
    fun hf ht => ⟨_, (microStep_start hf).trans (startStep_detach .lifecycle ht), rfl⟩⟩

end Sys2Proof.Machine
end

section
/-! PROOFS. DECODE's two errors (spec/60_exceptions.md): UnknownOpcode is a matter of the opcode byte alone (R105), and
ReservedBitSet one of the parameter byte after a valid opcode (R106). -/

namespace Sys2Proof

/-! ## UnknownOpcode, R53, R105 -/

/-- DECODE of a valid opcode fails, if it does, for another reason. -/
theorem decodeRaw_opcodeOf_ne_unknownOpcode (tag : Tag) (param : Option Byte) :
    decodeRaw (opcodeOf tag) param ≠ .error .unknownOpcode := by
  cases ht : hasParam tag with
  | false =>
    rw [decodeRaw_cmd0 ht]
    split <;> simp
  | true =>
    cases param with
    | none => simp [decodeRaw_cmd1_none ht]
    | some b =>
      rw [decodeRaw_cmd1 ht]
      split <;> simp

theorem decodeRaw_eq_unknownOpcode_iff (opcode : Byte) (param : Option Byte) :
    decodeRaw opcode param = .error .unknownOpcode ↔ popcount opcode ≠ 1 := by
  refine ⟨fun h hone => ?_, fun h => decodeRaw_of_unknown h param⟩
  obtain ⟨tag, rfl, -⟩ := opcode_of_one_bit opcode hone
  exact decodeRaw_opcodeOf_ne_unknownOpcode tag param h

/-- The valid opcodes are those of the eight tags (R48). -/
theorem popcount_eq_one_iff (opcode : Byte) : popcount opcode = 1 ↔ ∃ tag : Tag, opcode = opcodeOf tag := by
  constructor
  · intro hone
    obtain ⟨tag, htag, -⟩ := opcode_of_one_bit opcode hone
    exact ⟨tag, htag⟩
  · rintro ⟨tag, rfl⟩
    exact popcount_opcodeOf tag

theorem opcodeOf_mem : ∀ tag : Tag,
    opcodeOf tag ∈ [0x01#8, 0x02#8, 0x04#8, 0x08#8, 0x10#8, 0x20#8, 0x40#8, 0x80#8] := by
  decide

theorem opcodeOf_of_mem : ∀ opcode ∈ [0x01#8, 0x02#8, 0x04#8, 0x08#8, 0x10#8, 0x20#8, 0x40#8, 0x80#8],
    ∃ tag : Tag, opcode = opcodeOf tag := by
  decide

/-- Settles O4: a byte with one bit set is the opcode of a tag, and DECODE's other results need such an opcode. -/
theorem unknownOpcodeExactlyUnlessOneBit : Obligations.UnknownOpcodeExactlyUnlessOneBit := by
  refine fun opcode param => ⟨decodeRaw_eq_unknownOpcode_iff opcode param, ?valid⟩
  case valid =>
    rw [popcount_eq_one_iff]
    refine ⟨?_, opcodeOf_of_mem opcode⟩
    rintro ⟨tag, rfl⟩
    exact opcodeOf_mem tag

/-! ## ReservedBitSet, R106 -/

/-- After a valid opcode DECODE answers ReservedBitSet exactly for a parameter byte with a bit outside the mask. -/
theorem decodeRaw_opcodeOf_eq_reservedBitSet_iff (tag : Tag) (param : Option Byte) :
    decodeRaw (opcodeOf tag) param = .error .reservedBitSet ↔ ∃ b, param = some b ∧ b &&& ~~~maskOf tag ≠ 0#8 := by
  cases ht : hasParam tag with
  | false =>
    have hall (b : Byte) : b &&& 0xFF#8 = b := BitVec.and_allOnes
    rw [decodeRaw_cmd0 ht, maskOf_of_no_param tag ht]
    cases param with
    | none => simp
    | some b => simp [hall b]
  | true =>
    cases param with
    | none => simp [decodeRaw_cmd1_none ht]
    | some b => simp [decodeRaw_cmd1 ht]

/-- ReservedBitSet is answered for valid opcodes only. -/
theorem opcodeOf_of_decodeRaw_eq_reservedBitSet {opcode : Byte} {param : Option Byte}
    (h : decodeRaw opcode param = .error .reservedBitSet) : ∃ tag : Tag, opcode = opcodeOf tag := by
  rw [← popcount_eq_one_iff]
  by_contra hbits
  simp [decodeRaw_of_unknown hbits] at h

/-- Settles O5: the opcode is that of a tag, and the reserved bits are those outside the tag's mask, which is zero for
the two `CMD0` tags. -/
theorem reservedBitSetExactlyForReservedBits : Obligations.ReservedBitSetExactlyForReservedBits := by
  intro opcode param
  simp only [← maskOf_eq_getD]
  constructor
  · intro h
    obtain ⟨tag, rfl⟩ := opcodeOf_of_decodeRaw_eq_reservedBitSet h
    obtain ⟨b, hparam, hbits⟩ := (decodeRaw_opcodeOf_eq_reservedBitSet_iff tag param).1 h
    exact ⟨tag, b, rfl, hparam, hbits⟩
  · rintro ⟨tag, b, rfl, hparam, hbits⟩
    exact (decodeRaw_opcodeOf_eq_reservedBitSet_iff tag param).2 ⟨b, hparam, hbits⟩

end Sys2Proof
end

section
/-! PROOFS. Reset and the hazards (spec/70_reset_and_hazards.md): the state after reset (R120), the quiet states (R123),
a TRANSACT between the two writes of a SEND_CMD (R124), DETACH under an open session (R126), and what SEND_CMD puts on
DISPLAY (R131). -/

namespace Sys2Proof.Machine

open Sys2Proof.Expected

variable {p : Port} {k j : Nat} {tag : Tag} {payload b : Byte} {kind : Kind} {sel : Chip} {reg : Byte}
  {value : WriteValue} {x : Transfer} {a : Answer} {answers : List Answer} {code : BusCode} {es : List Event}
  {s : State}

/-! ## Quiet states, R20, R120, R123 -/

theorem flightsWf_of_quiet (hq : quiet s) : FlightsWf s := by
  rw [FlightsWf, hq]
  exact ⟨rfl, List.forall_mem_nil _⟩

/-- With nothing in flight a transport whose lock is free meets its invariant. -/
theorem transportInv_of_quiet (hq : quiet s) (hl : s.tlock = .free) : TransportInv s := by
  have hlock : LockInv s := by
    rw [lockInv_iff, hq, hl]
    rfl
  have htransfer : transferInFlight s.flights = false := by
    rw [hq]
    rfl
  exact ⟨flightsWf_of_quiet hq, hlock, addrInv_of_no_transfer htransfer⟩

/-- With nothing in flight a closed session meets its invariant. -/
theorem sessionInv_of_quiet (hq : quiet s) (hh : s.held = false) : SessionInv s := by
  have hheld : SessionHeldInv s := fun hopen => Bool.noConfusion (hh.symm.trans hopen)
  have hattach : AttachInv s := by
    rw [AttachInv, hq]
    exact List.forall_mem_nil _
  exact ⟨flightsWf_of_quiet hq, hheld, hattach⟩

/-- Settles O39: reset is quiet, with the lock free and the session closed, and nothing has been put out. -/
theorem resetIsSafe : Obligations.ResetIsSafe :=
  ⟨transportInv_of_quiet rfl rfl, sessionInv_of_quiet rfl rfl, List.forall_mem_nil _, List.forall_mem_nil _,
    reset_responderWf⟩

/-- Settles O40, field by field. -/
theorem resetValues : Obligations.ResetValues :=
  ⟨rfl, rfl, rfl, rfl, rfl⟩

/-- A lock that is held is held by a request in flight (R20). -/
theorem TransportInv.tlock_of_quiet (h : TransportInv s) (hq : quiet s) : s.tlock = .free := by
  cases hl : s.tlock with
  | free => rfl
  | held =>
    obtain ⟨p, r, m, hf, -⟩ := h.exists_holder hl
    rw [hq, flightOn_nil] at hf
    cases hf

/-- Settles O41: the lock would have a holder in flight, and no OPEN_SESSION is between its micro-steps. -/
theorem quietMeansLockFree : Obligations.QuietMeansLockFree := by
  rintro s ⟨htransport, ⟨-, hheld, -⟩, -⟩ hq
  refine ⟨htransport.tlock_of_quiet hq, fun hh => Option.isSome_iff_exists.1 (hheld hh ?_)⟩
  rw [hq]
  exact List.forall_mem_nil _

/-! ## DETACH under an open session, R126 -/

/-- Settles O53: DETACH puts out its own response, and leaves the session closed. -/
theorem detachClosesSilently : Obligations.DetachClosesSilently := by
  intro k kind sel reg value s hp hi hk ht
  exact ⟨_, runRequest_detach hp hi ht, rfl,
    runRequest_clientTransfer_closed (s := { said .lifecycle .ok (afterDetach s) with port := .client k })
      (.inl ⟨_, _, _, _, rfl⟩) rfl hk rfl⟩

/-! ## The bus trace and the responses of whole writes -/

theorem busTrace_said (p : Port) (x : Response) (s : State) : busTrace (said p x s).outputs = busTrace s.outputs :=
  (busTrace_append _ _).trans (List.append_nil _)

theorem busTrace_wrote (h : Handle) (a7 : BusAddr) (reg b : Byte) (s : State) :
    busTrace (wrote h a7 reg b s).outputs = busTrace s.outputs ++ [.write a7 reg b] :=
  busTrace_append _ _

theorem responses_wrote (h : Handle) (a7 : BusAddr) (reg b : Byte) (s : State) :
    responses (wrote h a7 reg b s).outputs = responses s.outputs :=
  (responses_append _ _).trans (List.append_nil _)

/-- The byte sent is one write, answered with its outcome. -/
theorem sentOne_eq (p : Port) (b : Byte) (s : State) :
    sentOne p b s = said p (answered (writeAnswer 0x3E#7 0x80#8 b s)) (wrote (handleOf s) 0x3E#7 0x80#8 b s) := by
  rcases writeAnswer_cases 0x3E#7 0x80#8 b s with hb | ⟨code, hb⟩
  · rw [sentOne, hb]; rfl
  · rw [sentOne, hb]; rfl

@[simp] theorem sentOne_flights (p : Port) (b : Byte) (s : State) : (sentOne p b s).flights = s.flights := by
  rw [sentOne_eq]
  rfl

@[simp] theorem sentOne_nclient (p : Port) (b : Byte) (s : State) : (sentOne p b s).nclient = s.nclient := by
  rw [sentOne_eq]
  rfl

theorem busTrace_sentOne (p : Port) (b : Byte) (s : State) :
    busTrace (sentOne p b s).outputs = busTrace s.outputs ++ [.write 0x3E#7 0x80#8 b] := by
  rw [sentOne_eq, busTrace_said, busTrace_wrote]

theorem responses_sentOne (p : Port) (b : Byte) (s : State) :
    responses (sentOne p b s).outputs =
      responses s.outputs ++ [(p, answered (writeAnswer 0x3E#7 0x80#8 b s))] := by
  rw [sentOne_eq, responses_said, responses_wrote]

/-- The parameter byte follows an opcode byte that was accepted (R94). -/
theorem sentTwo_of_okWrite {opcode : Byte} (param : Byte) (h : writeAnswer 0x3E#7 0x80#8 opcode s = .okWrite) :
    sentTwo p opcode param s = sentOne p param (wrote (handleOf s) 0x3E#7 0x80#8 opcode s) := by
  rw [sentTwo, h]

/-- The opcode byte that fails is all that is sent (R94). -/
theorem sentTwo_of_fail {opcode : Byte} (param : Byte) (h : writeAnswer 0x3E#7 0x80#8 opcode s = .fail code) :
    sentTwo p opcode param s = sentOne p opcode s := by
  simp only [sentTwo, sentOne, h]

/-! ## What SEND_CMD puts on DISPLAY, R131 -/

theorem encodeRaw_bytes_cmd0 (htag : tag.toNat < 2) (payload : Byte) :
    (encodeRaw tag payload).bytes = [opcodeOf tag] := by
  rw [EncOut.bytes, encodeRaw_param_cmd0 (decide_eq_false (Nat.not_le.2 htag))]
  rfl

theorem encodeRaw_bytes_cmd1 (htag : 2 ≤ tag.toNat) (payload : Byte) :
    (encodeRaw tag payload).bytes = [opcodeOf tag, payload &&& maskOf tag] := by
  rw [EncOut.bytes, encodeRaw_param_cmd1 (decide_eq_true htag)]
  rfl

theorem transfersOf_sendCmd (tag : Tag) (payload : Byte) :
    transfersOf (.sendCmd tag payload) = (encodeRaw tag payload).bytes.map fun b => ⟨.text, 0x80#8, .write b⟩ := by
  rw [transfersOf, wire, List.map_map]
  refine List.map_congr_left fun b _ => ?_
  exact congrArg (fun v => Transfer.mk .text 0x80#8 (.write v)) (lowByte_zext10 b)

/-- `t` comes from `s` by the writes to DISPLAY of the first of `bytes`, of all of them unless the last one written is
answered on port `p` with BusError. -/
def sentFirstOf (p : Port) (bytes : List Byte) (s t : State) : Prop :=
  ∃ n, 1 ≤ n ∧ busTrace t.outputs = busTrace s.outputs ++ (bytes.take n).map (.write 0x3E#7 0x80#8) ∧
    (bytes.length ≤ n ∨ ∃ code, responses t.outputs = responses s.outputs ++ [(p, .busError code)])

theorem sentFirstOf_sentOne (p : Port) (b : Byte) (s : State) : sentFirstOf p [b] s (sentOne p b s) :=
  ⟨1, le_rfl, busTrace_sentOne p b s, .inl le_rfl⟩

theorem sentFirstOf_sentTwo (p : Port) (opcode param : Byte) (s : State) :
    sentFirstOf p [opcode, param] s (sentTwo p opcode param s) := by
  rcases writeAnswer_cases 0x3E#7 0x80#8 opcode s with hb | ⟨code, hb⟩
  · refine ⟨2, by decide, ?_, .inl le_rfl⟩
    rw [sentTwo_of_okWrite param hb, busTrace_sentOne, busTrace_wrote, List.append_assoc]
    rfl
  · refine ⟨1, le_rfl, ?_, .inr ⟨code, ?_⟩⟩
    · rw [sentTwo_of_fail param hb, busTrace_sentOne]
      rfl
    · rw [sentTwo_of_fail param hb, responses_sentOne, hb]
      rfl

/-- SEND_CMD on an open session and a free lock sends ENCODE's bytes until one fails (R94). -/
theorem exec_sendCmd_sentFirstOf (hp : s.port = .client k) (hi : idle (.client k) s) (hh : s.held = true)
    (hl : s.tlock = .free) :
    ∃ t, exec (.sendCmd tag payload) s = .next t ∧ sentFirstOf (.client k) (encodeRaw tag payload).bytes s t := by
  rcases Nat.lt_or_ge tag.toNat 2 with htag | htag
  · rw [encodeRaw_bytes_cmd0 htag]
    exact ⟨_, exec_sendCmd_cmd0 hp hi hh hl htag, sentFirstOf_sentOne ..⟩
  · rw [encodeRaw_bytes_cmd1 htag]
    exact ⟨_, exec_sendCmd_cmd1 hp hi hh hl htag, sentFirstOf_sentTwo ..⟩

/-- Settles O10: DECODE after ENCODE, the transactions byte by byte, and the run by the number of bytes. -/
theorem sendCmdBytesAreAValidEncoding : Obligations.SendCmdBytesAreAValidEncoding := by
  refine fun tag payload => ⟨decodeRaw_encodeRaw tag payload, transfersOf_sendCmd tag payload, ?_⟩
  intro k s hp hi hh hl
  obtain ⟨t, hexec, n, hn, hsent⟩ := exec_sendCmd_sentFirstOf (tag := tag) (payload := payload) hp hi hh hl
  exact ⟨t, n, hexec, hn, hsent⟩

/-! ## A TRANSACT between the two writes of a SEND_CMD, R124 -/

/-- The first answer of a list is the one a whole write gets (log 7). -/
theorem writeAnswer_of_answers (a7 : BusAddr) (reg b : Byte) (hr : s.responder = .blackBox (a :: answers)) :
    writeAnswer a7 reg b s = respOf (.write a7 reg b) a := by
  rw [writeAnswer, hr]
  rfl

/-- The first answer of a list is the one a whole transaction gets (log 7). -/
theorem wholeResponse_of_answers (x : Transfer) (hr : s.responder = .blackBox (a :: answers)) :
    wholeResponse x s = respOf (busOpOf (a7Of x.sel) x) a := by
  rw [wholeResponse, busResponse, hr]
  rfl

theorem busTrace_wholeTransfer (h : Handle) (x : Transfer) (s : State) :
    busTrace (wholeTransfer h x s).outputs = busTrace s.outputs ++ [busOpOf (a7Of x.sel) x] :=
  busTrace_append _ _

theorem runSteps_add (m n : Nat) (s : State) : runSteps (m + n) s = thenStep (runSteps m s) (runSteps n) := by
  induction m generalizing s with
  | zero => rw [Nat.zero_add, runSteps, thenStep_next]
  | succ m ih =>
    rw [Nat.add_right_comm, runSteps, runSteps]
    cases step s with
    | next t => rw [thenStep_next, thenStep_next, ih]
    | fault e => exact nomatch e
    | refused why => rfl

/-- Granting a request its micro-steps is driving it, whatever port was served before. -/
theorem runSteps_grants_served (n : Nat) (he : s.events = List.replicate (n + 1) (.grant p) ++ es) :
    runSteps (n + 1) s = drive (n + 1) p (serve (.grant p) es s) := by
  refine Eq.trans ?_ (runSteps_grants (p := p) (s := serve (.grant p) es s) (n + 1) rfl)
  rw [runSteps, runSteps, step_grants he, step_grants rfl]
  rfl

/-- A request presented and granted its next micro-steps. -/
theorem runSteps_issue_grants (n : Nat) (r : Request) (hacc : r.acceptedOn p = true) (hi : idle p s)
    (hne : r ≠ .detach) (he : s.events = .issue p r.record :: (List.replicate (n + 1) (.grant p) ++ es)) :
    runSteps (n + 2) s = drive (n + 1) p (advance p r .start (serve (.grant p) es s)) := by
  have hstep : step s = accept p r (serve (.issue p r.record) (List.replicate (n + 1) (.grant p) ++ es) s) := by
    simp only [step, he, fetch, decodeRequest_record hacc]
  rw [runSteps, hstep, accept_eq (s := serve ..) hacc hi (.inl hne), thenStep_next]
  exact runSteps_grants_served n rfl

/-- The first five micro-steps of a two-byte SEND_CMD whose opcode byte is accepted: the `require` and one whole
write (R93, R94). -/
theorem drive_opcode_write (htag : 2 ≤ tag.toNat) (hh : s.held = true) (hl : s.tlock = .free)
    (hb : writeAnswer 0x3E#7 0x80#8 (opcodeOf tag) s = .okWrite) :
    drive 5 p (advance p (.sendCmd tag payload) .start s) =
      .next (advance p (.sendCmd tag payload) (.xact 1 .acquire)
        (wrote (handleOf s) 0x3E#7 0x80#8 (opcodeOf tag) s)) := by
  rw [drive_succ, microStep_start (flightOn_setFlight_same ..),
    startStep_clientTransfer_open (s := advance ..) (isClientTransfer_sendCmd tag payload) p hh, thenStep_next,
    advance_advance, drive_displayWrite 0 (transfersOf_sendCmd_opcode tag payload) hl, hb,
    sendAfter_opcode okWrite_ne_fail htag, thenStep_next, advance_atRelease, wholeTransfer_displayWrite]
  rfl

/-- The transaction of a TRANSACT (R93). -/
def transactTransfer (sel : Chip) (reg : Byte) (value : WriteValue) : Kind → Transfer
  | .read => readTransfer sel reg
  | .write => writeTransfer sel reg value

theorem transfersOf_transact (kind : Kind) (sel : Chip) (reg : Byte) (value : WriteValue) :
    transfersOf (.transact kind sel reg value) = [transactTransfer sel reg value kind] := by
  cases kind <;> rfl

/-- The state after a TRANSACT with the transaction `x`, run whole on client port `j` with the events `es` next. -/
def transacted (j : Nat) (x : Transfer) (es : List Event) (s : State) : State :=
  said (.client j) (answered (wholeResponse x s))
    (wholeTransfer (handleOf s) x { s with events := es, port := .client j })

@[simp] theorem transacted_flights (j : Nat) (x : Transfer) (es : List Event) (s : State) :
    (transacted j x es s).flights = s.flights := rfl

@[simp] theorem transacted_nclient (j : Nat) (x : Transfer) (es : List Event) (s : State) :
    (transacted j x es s).nclient = s.nclient := rfl

theorem busTrace_transacted (j : Nat) (x : Transfer) (es : List Event) (s : State) :
    busTrace (transacted j x es s).outputs = busTrace s.outputs ++ [busOpOf (a7Of x.sel) x] := by
  rw [transacted, busTrace_said, busTrace_wholeTransfer]

theorem responses_transacted (j : Nat) (x : Transfer) (es : List Event) (s : State) :
    responses (transacted j x es s).outputs = responses s.outputs ++ [(.client j, answered (wholeResponse x s))] :=
  responses_said_wholeTransfer ..

/-- A whole TRANSACT does not look at the requests in flight on other ports. -/
theorem transacted_advance (j : Nat) (x : Transfer) (es : List Event) (p : Port) (r : Request) (m : Micro)
    (s : State) : transacted j x es (advance p r m s) = advance p r m (transacted j x es s) := rfl

/-- A TRANSACT run on an open session and a free lock is one whole transaction (R93). -/
theorem step_runs_transact (he : s.events = .run (.client j) (Request.record (.transact kind sel reg value)) :: es)
    (hi : idle (.client j) s) (hh : s.held = true) (hl : s.tlock = .free) :
    step s = .next (transacted j (transactTransfer sel reg value kind) es s) := by
  rw [step_runs (.transact kind sel reg value) rfl he, transacted, ← transactResponse_eq_answered]
  exact runRequest_transact (s := serve ..) rfl (by rw [transfersOf_transact]; rfl) rfl hi hh hl

/-- The state after the opcode write of a SEND_CMD granted on client port `k`, but for its flight. -/
def opcodeSent (k : Nat) (tag : Tag) (es : List Event) (s : State) : State :=
  wrote (handleOf s) 0x3E#7 0x80#8 (opcodeOf tag) (serve (.grant (.client k)) es s)

@[simp] theorem opcodeSent_flights (k : Nat) (tag : Tag) (es : List Event) (s : State) :
    (opcodeSent k tag es s).flights = s.flights := rfl

@[simp] theorem opcodeSent_nclient (k : Nat) (tag : Tag) (es : List Event) (s : State) :
    (opcodeSent k tag es s).nclient = s.nclient := rfl

/-- The state after a SEND_CMD of client `k` with a TRANSACT of client `j` between its two writes. -/
def interleaved (k j : Nat) (tag : Tag) (param : Byte) (x : Transfer) (s : State) : State :=
  sentOne (.client k) param (serve (.grant (.client k)) [] (transacted j x [] (opcodeSent k tag [] s)))

/-- The events of the interleaving: five micro-steps of the SEND_CMD, the TRANSACT, and the other four (log 8). -/
def interleaving (k j : Nat) (r r' : Request) : List Event :=
  .issue (.client k) r.record :: (List.replicate 5 (.grant (.client k)) ++
    (.run (.client j) r'.record :: List.replicate 4 (.grant (.client k))))

/-- The opcode byte of a two-byte SEND_CMD presented and granted: the parameter byte's T1 is next. -/
theorem runSteps_opcodeSent (htag : 2 ≤ tag.toNat) (hk : idle (.client k) s) (hh : s.held = true)
    (hl : s.tlock = .free) (hb : writeAnswer 0x3E#7 0x80#8 (opcodeOf tag) s = .okWrite)
    (he : s.events = .issue (.client k) (Request.record (.sendCmd tag payload)) ::
      (List.replicate 5 (.grant (.client k)) ++ es)) :
    runSteps 6 s =
      .next (advance (.client k) (.sendCmd tag payload) (.xact 1 .acquire) (opcodeSent k tag es s)) := by
  rw [runSteps_issue_grants 4 (.sendCmd tag payload) rfl hk nofun he]
  exact drive_opcode_write (s := serve ..) htag hh hl hb

/-- The two whole writes with the whole TRANSACT between them: each takes the lock and frees it. -/
theorem runSteps_interleaving (htag : 2 ≤ tag.toNat) (hkj : k ≠ j) (hk : idle (.client k) s)
    (hj : idle (.client j) s) (hh : s.held = true) (hl : s.tlock = .free)
    (hb : writeAnswer 0x3E#7 0x80#8 (opcodeOf tag) s = .okWrite)
    (he : s.events = interleaving k j (.sendCmd tag payload) (.transact kind sel reg value)) :
    runSteps 11 s =
      .next (interleaved k j tag (payload &&& maskOf tag) (transactTransfer sel reg value kind) s) := by
  have hjk : Port.client j ≠ .client k := mt Port.client.inj hkj.symm
  refine (runSteps_add 6 5 s).trans ?_
  rw [runSteps_opcodeSent htag hk hh hl hb he, thenStep_next]
  refine (runSteps_of_step
    (step_runs_transact rfl (by exact idle_advance _ _ hjk hj) (by exact hh) (by exact hl))).trans ?_
  rw [transacted_advance]
  refine (runSteps_grants_served (p := .client k) (es := []) 3 rfl).trans ?_
  exact drive_last_write (s := serve (.grant (.client k)) [] (transacted ..)) 0
    (transfersOf_sendCmd_param htag payload) (.inl rfl) hl hk.2

theorem busTrace_interleaved (k j : Nat) (tag : Tag) (param : Byte) (x : Transfer) (s : State) :
    busTrace (interleaved k j tag param x s).outputs = busTrace s.outputs ++
      [.write 0x3E#7 0x80#8 (opcodeOf tag), busOpOf (a7Of x.sel) x, .write 0x3E#7 0x80#8 param] := by
  rw [interleaved, busTrace_sentOne, serve_outputs, busTrace_transacted, opcodeSent, busTrace_wrote, serve_outputs,
    List.append_assoc, List.append_assoc]
  rfl

/-- The second answer is the TRANSACT's and the third the SEND_CMD's. -/
theorem responses_interleaved (k j : Nat) (tag : Tag) (param : Byte) (x : Transfer) {a₁ a₂ a₃ : Answer}
    (hr : s.responder = .blackBox [a₁, a₂, a₃]) :
    responses (interleaved k j tag param x s).outputs = responses s.outputs ++
      [(.client j, answered (respOf (busOpOf (a7Of x.sel) x) a₂)),
        (.client k, answered (respOf (.write 0x3E#7 0x80#8 param) a₃))] := by
  have hopcode : (opcodeSent k tag [] s).responder = .blackBox [a₂, a₃] :=
    congrArg (responderAfter · (.write 0x3E#7 0x80#8 (opcodeOf tag))) hr
  have htransact : (serve (.grant (.client k)) [] (transacted j x [] (opcodeSent k tag [] s))).responder =
      .blackBox [a₃] :=
    congrArg (responderAfter · (busOpOf (a7Of x.sel) x)) hopcode
  rw [interleaved, responses_sentOne, writeAnswer_of_answers _ _ _ htransact, serve_outputs,
    responses_transacted, wholeResponse_of_answers x hopcode, opcodeSent, responses_wrote, serve_outputs,
    List.append_assoc]
  rfl

/-- Both requests have ended, and the others are where they were. -/
theorem interleaved_frame (k j : Nat) (tag : Tag) (param : Byte) (x : Transfer) (s : State) :
    (interleaved k j tag param x s).flights = s.flights ∧ (interleaved k j tag param x s).nclient = s.nclient := by
  simp [interleaved]

theorem idle_interleaved {q : Port} (param : Byte) (hi : idle q s) : idle q (interleaved k j tag param x s) := by
  obtain ⟨hflights, hnclient⟩ := interleaved_frame k j tag param x s
  rw [idle, hflights, hnclient]
  exact hi

/-- The bus operation of a TRANSACT, by its kind (R82, R83, R84). -/
theorem busOpOf_transactTransfer (sel : Chip) (reg : Byte) (value : WriteValue) :
    busOpOf (a7Of (transactTransfer sel reg value .read).sel) (transactTransfer sel reg value .read) =
        .read (addressOf sel) reg ∧
      busOpOf (a7Of (transactTransfer sel reg value .write).sel) (transactTransfer sel reg value .write) =
        .write (addressOf sel) reg (value.extractLsb' 0 8) := by
  rw [addressOf_eq_a7Of, ← lowByte_eq_extractLsb']
  exact ⟨rfl, rfl⟩

/-- What a TRANSACT is answered with: a read's byte, OK for a write, the code of a failure (R93). -/
theorem answered_transactTransfer (kind : Kind) (sel : Chip) (reg : Byte) (value : WriteValue) (a : Answer) :
    answered
        (respOf (busOpOf (a7Of (transactTransfer sel reg value kind).sel) (transactTransfer sel reg value kind)) a) =
      match a with
      | .ok b => if kind = .read then .okData b else .ok
      | .fail code => .busError code := by
  cases a with
  | ok b => cases kind <;> rfl
  | fail code => rfl

/-- What a write is answered with (R83). -/
theorem answered_write (a7 : BusAddr) (reg b : Byte) (a : Answer) :
    answered (respOf (.write a7 reg b) a) =
      match a with
      | .ok _ => .ok
      | .fail code => .busError code := by
  cases a <;> rfl

/-- Settles O33: the SEND_CMD waits for its second T1 without the lock, so the TRANSACT is one whole transaction there,
and the three operations get the three answers in order. -/
theorem sendCmdCanBeInterleaved : Obligations.SendCmdCanBeInterleaved := by
  intro k j tag payload kind sel reg value b a a' s htag hkj hk hj hh hl hr
  have hb : writeAnswer 0x3E#7 0x80#8 (opcodeOf tag) s = .okWrite := writeAnswer_of_answers _ _ _ hr
  obtain ⟨hread, hwrite⟩ := busOpOf_transactTransfer sel reg value
  have hrun := runSteps_interleaving
    (s := s.withEvents (interleaving k j (.sendCmd tag payload) (.transact kind sel reg value)))
    htag hkj hk hj hh hl hb rfl
  refine ⟨_, _, ?read, ?write, hrun, busTrace_interleaved .., ?answers, idle_interleaved _ hk,
    idle_interleaved _ hj⟩
  case read => rintro rfl; exact hread
  case write => rintro rfl; exact hwrite
  case answers =>
    refine (responses_interleaved (s := s.withEvents _) k j tag _ _ hr).trans ?_
    rw [answered_transactTransfer, answered_write]
    rfl

end Sys2Proof.Machine
end
